-- ==== Sys2Proof/Word.lean ====
section
/-! DEFINITION. The word types of the hardware (00_scope.md R4, R13; 30_encoding.md R100). -/

namespace Sys2Proof

/-- A 64-bit register value, address or `csr_value` (R4, R62, R64). -/
abbrev Word := BitVec 64

/-- A byte of memory (R80). -/
abbrev Byte := BitVec 8

/-- An instruction word (R100). -/
abbrev InstrWord := BitVec 32

/-- An integer register number, 0 to 31 (R62, R104). -/
abbrev Reg := BitVec 5

/-- A CSR address (R80, R101). -/
abbrev CsrAddr := BitVec 12

end Sys2Proof
end

