-- ==== Sys2Proof/Machine/Types.lean ====
section
/-! DEFINITION. The plain data the machine is made of: privilege levels and modes, the stored fields of `mstatus`, the
causes of a trap, and what the host core reports in one step (10_state.md, 60_exceptions.md, 92_eei_decisions.md). -/

namespace Sys2Proof.Machine

/-- The three nominal privilege levels (60_exceptions.md R185); the code 2 is not a level, so it has no constructor. -/
inductive Priv where
  | U
  | S
  | M
  deriving DecidableEq, Repr, Inhabited

/-- A mode: the virtualization bit and the nominal privilege level (10_state.md R61). -/
structure Mode where
  v : Bool
  priv : Priv
  deriving DecidableEq, Repr, Inhabited

/-- The 16 stored fields of `mstatus` (10_state.md R20, R21). One-bit fields are `Bool`; MPP is a privilege level, since
its legal values are 0, 1 and 3 (R23, R40); FS and VS are their two bits. The constant fields, SD and the reserved bits
have no storage (R14, R15, R24). -/
structure Mstatus where
  mpv : Bool
  gva : Bool
  tsr : Bool
  tw : Bool
  tvm : Bool
  mxr : Bool
  sum : Bool
  mprv : Bool
  fs : BitVec 2
  mpp : Priv
  vs : BitVec 2
  spp : Bool
  mpie : Bool
  spie : Bool
  mie : Bool
  sie : Bool
  deriving DecidableEq, Repr

/-- The kinds of access a page fault is reported for (60_exceptions.md R188, R189). -/
inductive AccessKind where
  | fetch
  | load
  | store
  deriving DecidableEq, Repr

/-- The exceptions the spec names (60_exceptions.md R187, R188). -/
inductive Exc where
  | illegalInstruction
  | pageFault (k : AccessKind)
  deriving DecidableEq, Repr

/-- Why a trap was taken: an exception, of a class of this spec or (`none`) of one it does not describe, or an interrupt.
`byAccess` says that a load or a store of the instruction raised the exception (60_exceptions.md R197: "when the access was
made"), and not a gate, a privilege check or the fetch. -/
inductive Cause where
  | exception (e : Option Exc) (byAccess : Bool)
  | interrupt
  deriving DecidableEq, Repr

/-- The mode a trap is taken into (60_exceptions.md R194). -/
inductive TrapMode where
  | M
  | HS
  | VS
  deriving DecidableEq, Repr, Inhabited

/-- The operations the TVM rule may trap (42_wfi_and_gated_instructions.md R168); `other` stands for any the lost list
may have named. -/
inductive VmOp where
  | satpAccess
  | sfenceVma
  | sinvalVma
  | hgatpAccess
  | hfenceGvma
  | other (n : Nat)
  deriving DecidableEq, Repr

/-- What a host-core instruction does with the floating-point or the vector unit: nothing, it is an instruction of the
unit that writes none of its state, or it is one that reports `fp_state_written` or `vec_state_written`
(10_state.md R63). -/
inductive UnitUse where
  | notUsed
  | used
  | written
  deriving DecidableEq, Repr

/-- The permission bits of the page a load falls in (20_memory.md R87, R88), and which of the two checks the host core
makes first: the spec orders them nowhere. -/
structure PageLoad where
  r : Bool
  x : Bool
  u : Bool
  sumFirst : Bool
  deriving DecidableEq, Repr

/-- A host-core instruction as the host core reports it (70_reset_and_hazards.md R227, 10_state.md R63): the units it
uses, the TVM-gated operation it performs, the page its load falls in; and what it does outside `mstatus` if it completes,
which this spec does not describe: an integer register it writes, the bytes that change as the fetch sees them
(20_memory.md R96), and where execution goes on. DESIGN CHOICE, log 34: a load for which no page is reported makes neither
the MXR nor the SUM check; whether they matter when no translation is active is not in the source (20_memory.md R87,
91_not_in_source.md N18). -/
structure HostInstr where
  fp : UnitUse
  vec : UnitUse
  vmOp : Option VmOp
  load : Option PageLoad
  xWrite : Option (Reg × Word)
  fetchBytes : List (Word × Byte)
  nextPc : Word
  deriving DecidableEq, Repr

/-- What a reset draws (70_reset_and_hazards.md R221, 10_state.md R69): values for the fields, for the integer registers
and for the entry point. -/
structure ResetDraw where
  mstatus : Mstatus
  x : Vector Word 31
  resetVector : Word
  deriving DecidableEq, Repr

/-- What happens in a step instead of the instruction at `pc` (70_reset_and_hazards.md R227): a reset; a host-core
instruction; an exception the host core raises, with the data of `Cause.exception`; an interrupt taken into VS-mode, whose
enable is outside this spec. -/
inductive HostEvent where
  | reset (d : ResetDraw)
  | hostInstr (h : HostInstr)
  | exception (e : Option Exc) (byAccess : Bool)
  | vsInterrupt
  deriving DecidableEq, Repr

/-- The inputs of one step (92_eei_decisions.md, end; 10_state.md R63, R64). `mIntReady` and `sIntReady` say that an
interrupt with target M-mode or HS-mode is ready (60_exceptions.md R192); `wfiWaits` that the wait of a `wfi` goes on
past this step (42_wfi_and_gated_instructions.md R165). -/
structure Inputs where
  event : Option HostEvent
  mIntReady : Bool
  sIntReady : Bool
  wfiTimedOut : Bool
  wfiWaits : Bool
  sretNewV : Bool
  trapMode : TrapMode
  gvaWritten : Bool
  trapTarget : Word
  retTarget : Word
  deriving DecidableEq, Repr

/-- The architectural state of the hart, the argument `s` of the functions `UL_MPP`, `UL_FS`, `UL_VS`
(00_scope.md R18: at least the stored `mstatus`, `priv` and `V`). -/
structure Arch where
  mstatus : Mstatus
  priv : Priv
  v : Bool
  x : Vector Word 31
  pc : Word
  deriving DecidableEq, Repr

end Sys2Proof.Machine
end

