-- ==== Sys2Proof/Config.lean ====
section
/-! DEFINITION. What an implementation fixes (00_scope.md section 4): the parameters that are plain data, and the free
values, which are constants without a body. -/

namespace Sys2Proof

open Sys2Proof.Machine

/-- A set of 2-bit values that contains 3 (00_scope.md R9, R10): which of 0, 1 and 2 it holds besides. -/
structure Config.LegalSet where
  has0 : Bool
  has1 : Bool
  has2 : Bool
  deriving DecidableEq, Repr

/-- `SUM_FAULT_KIND`: the two admissible classes (20_memory.md R89). -/
inductive Config.SumFaultKind where
  | illegalInstruction
  | pageFault
  deriving DecidableEq, Repr

/-- `MRET_MPV`: the two readings of what `mret` leaves in MPV (41_trap_return.md R157). -/
inductive Config.MretMpv where
  | zero
  | unchanged
  deriving DecidableEq, Repr

/-- The parameters of the implementation that are data. State holds one value of it, which no step changes, so that a
statement over every state holds for every value of every parameter (92_eei_decisions.md: OPEN). -/
structure Config.Params where
  /-- `MSTATUS_FS_LEGAL_VALUES` (R9). -/
  fsLegal : Config.LegalSet
  /-- `MSTATUS_VS_LEGAL_VALUES` (R10). -/
  vsLegal : Config.LegalSet
  /-- `TVM_MODES` (R168). -/
  tvmModes : List Mode
  /-- `TVM_TRAPPED_OPS` (R168). -/
  tvmTrappedOps : List VmOp
  /-- `SUM_FAULT_KIND` (R89). -/
  sumFaultKind : Config.SumFaultKind
  /-- `MRET_MPV` (R157). -/
  mretMpv : Config.MretMpv
  deriving DecidableEq, Repr

/-- `UL_MPP` (R18, R127): total, into {0, 1, 3}, a function of the state before the write and `csr_value`. Log 11. -/
opaque Config.ulMpp : Arch → Word → Priv

/-- `UL_FS` (R18, R126) before it is held to the legal set. Log 11. -/
opaque Config.ulFs : Arch → Word → BitVec 2

/-- `UL_VS` (R18, R128) before it is held to the legal set. Log 11. -/
opaque Config.ulVs : Arch → Word → BitVec 2

/-- Free values of the input `wfi_timed_out`, one a step (R166). Log 6. -/
opaque Config.freeWfiTimedOut : Nat → Bool

/-- Free values of "the wait goes on", one a step (R165, R166). Log 6, log 14. -/
opaque Config.freeWfiWaits : Nat → Bool

/-- Free values of the input `sret_new_V` (R152). Log 6. -/
opaque Config.freeSretNewV : Nat → Bool

/-- Free values of the input `trap_target_mode` (R194). Log 6. -/
opaque Config.freeTrapMode : Nat → TrapMode

/-- Free values of the input `gva_written` (R197). Log 6. -/
opaque Config.freeGvaWritten : Nat → Bool

/-- Free values of the input `trap_target` (R64). Log 6. -/
opaque Config.freeTrapTarget : Nat → Word

/-- Free values of the input `ret_target` (R64). Log 6. -/
opaque Config.freeRetTarget : Nat → Word

end Sys2Proof
end

