-- ==== Sys2Proof/Syntax.lean ====
section
/-! DEFINITION. The nine instructions of spec/opcode_table.json, one constructor a row (30_encoding.md R100 to R105). -/

namespace Sys2Proof

/-- The instructions. The CSR forms keep the `csr` field of the encoding: only `0x300` has a meaning (R101), and the
others are refused by the meaning, by name. -/
inductive Instr where
  /-- `csrrw rd, csr, rs1` (R130). -/
  | csrrw (csr : CsrAddr) (rd rs1 : Reg)
  /-- `csrrs rd, csr, rs1` (R131). -/
  | csrrs (csr : CsrAddr) (rd rs1 : Reg)
  /-- `csrrc rd, csr, rs1` (R132). -/
  | csrrc (csr : CsrAddr) (rd rs1 : Reg)
  /-- `csrrwi rd, csr, uimm` (R133). -/
  | csrrwi (csr : CsrAddr) (rd : Reg) (uimm : BitVec 5)
  /-- `csrrsi rd, csr, uimm` (R134). -/
  | csrrsi (csr : CsrAddr) (rd : Reg) (uimm : BitVec 5)
  /-- `csrrci rd, csr, uimm` (R135). -/
  | csrrci (csr : CsrAddr) (rd : Reg) (uimm : BitVec 5)
  /-- `mret` (R150). -/
  | mret
  /-- `sret` (R152). -/
  | sret
  /-- `wfi` (R165). -/
  | wfi
  deriving DecidableEq, Repr

end Sys2Proof
end

