-- ==== Sys2Proof/WellFormed.lean ====
section
/-! DEFINITION. Which instructions the spec gives a meaning to: a CSR instruction names `0x300` (30_encoding.md R101).
The widths of the operands are in their types. -/

namespace Sys2Proof

/-- The address of `mstatus` (00_scope.md R2, 10_state.md R20). -/
def mstatusAddr : CsrAddr := 0x300#12

/-- The CSR address an instruction names, if it names one (R101, R102, R103). -/
def Instr.csr? : Instr → Option CsrAddr
  | .csrrw c _ _ => some c
  | .csrrs c _ _ => some c
  | .csrrc c _ _ => some c
  | .csrrwi c _ _ => some c
  | .csrrsi c _ _ => some c
  | .csrrci c _ _ => some c
  | .mret => none
  | .sret => none
  | .wfi => none

/-- "This spec gives a meaning only to `csr == 0x300`" (R101). -/
def Instr.wellFormed (i : Instr) : Bool :=
  match i.csr? with
  | some c => c == mstatusAddr
  | none => true

end Sys2Proof
end

