-- ==== Sys2Proof/Decode.lean ====
section
/-! DEFINITION. Decoding and encoding the nine instructions (30_encoding.md). -/

namespace Sys2Proof

/-- Why a word is none of the nine instructions (30_encoding.md R100, R105). -/
inductive DecodeError where
  /-- Fewer bytes than an instruction has. -/
  | tooShort
  /-- The major opcode `bits[6:0]` is not `0x73` (R100). -/
  | notSystem
  /-- `funct3` is 100 (R105). -/
  | funct3OutOfScope
  /-- `funct3` is 000 and the word is none of `mret`, `sret`, `wfi` (R103, R105). -/
  | privOutOfScope
  deriving DecidableEq, Repr

/-- `opcode`, bits 6:0 (R101). -/
def opcodeField (w : InstrWord) : BitVec 7 := w.extractLsb' 0 7

/-- `rd`, bits 11:7 (R101). -/
def rdField (w : InstrWord) : Reg := w.extractLsb' 7 5

/-- `funct3`, bits 14:12 (R101). -/
def funct3Field (w : InstrWord) : BitVec 3 := w.extractLsb' 12 3

/-- `rs1` of format CSR, `uimm` of format CSRI, bits 19:15 (R101, R102, R104). -/
def rs1Field (w : InstrWord) : BitVec 5 := w.extractLsb' 15 5

/-- `csr`, bits 31:20 (R101). -/
def csrField (w : InstrWord) : CsrAddr := w.extractLsb' 20 12

/-- The SYSTEM major opcode (R100). -/
def systemOpcode : BitVec 7 := 0b1110011#7

/-- The fixed words of format PRIV (R103). -/
def mretWord : InstrWord := 0x30200073#32
/-- See `mretWord`. -/
def sretWord : InstrWord := 0x10200073#32
/-- See `mretWord`. -/
def wfiWord : InstrWord := 0x10500073#32

/-- Words with `funct3` 000 are told apart by the whole word (R103, R105). -/
def decodePriv (w : InstrWord) : Except DecodeError Instr :=
  if w = mretWord then .ok .mret
  else if w = sretWord then .ok .sret
  else if w = wfiWord then .ok .wfi
  else .error .privOutOfScope

/-- The opcode map (R105). -/
def decodeSystem (w : InstrWord) : Except DecodeError Instr :=
  match (funct3Field w).toNat with
  | 0 => decodePriv w
  | 1 => .ok (.csrrw (csrField w) (rdField w) (rs1Field w))
  | 2 => .ok (.csrrs (csrField w) (rdField w) (rs1Field w))
  | 3 => .ok (.csrrc (csrField w) (rdField w) (rs1Field w))
  | 5 => .ok (.csrrwi (csrField w) (rdField w) (rs1Field w))
  | 6 => .ok (.csrrsi (csrField w) (rdField w) (rs1Field w))
  | 7 => .ok (.csrrci (csrField w) (rdField w) (rs1Field w))
  | _ => .error .funct3OutOfScope

/-- An instruction word to an instruction, or the name of why it is none (R100, R105). -/
def decodeWord (w : InstrWord) : Except DecodeError Instr :=
  if opcodeField w = systemOpcode then decodeSystem w else .error .notSystem

/-- Four bytes in address order to a word: little-endian (20_memory.md R82). -/
def wordOfBytes (b0 b1 b2 b3 : Byte) : InstrWord := b3 ++ b2 ++ b1 ++ b0

/-- The instruction at the head of a list of bytes, with the bytes after it. Every instruction has four bytes (R100,
R109). -/
def decode : List Byte → Except DecodeError (Instr × List Byte)
  | b0 :: b1 :: b2 :: b3 :: rest =>
    match decodeWord (wordOfBytes b0 b1 b2 b3) with
    | .ok i => .ok (i, rest)
    | .error e => .error e
  | _ => .error .tooShort

/-- Formats CSR and CSRI (R101, R102). -/
def csrWord (csr : CsrAddr) (src : BitVec 5) (funct3 : BitVec 3) (rd : Reg) : InstrWord :=
  csr ++ src ++ funct3 ++ rd ++ systemOpcode

/-- The word of an instruction (R101, R102, R103, R105). -/
def encodeWord : Instr → InstrWord
  | .csrrw csr rd rs1 => csrWord csr rs1 0b001#3 rd
  | .csrrs csr rd rs1 => csrWord csr rs1 0b010#3 rd
  | .csrrc csr rd rs1 => csrWord csr rs1 0b011#3 rd
  | .csrrwi csr rd uimm => csrWord csr uimm 0b101#3 rd
  | .csrrsi csr rd uimm => csrWord csr uimm 0b110#3 rd
  | .csrrci csr rd uimm => csrWord csr uimm 0b111#3 rd
  | .mret => mretWord
  | .sret => sretWord
  | .wfi => wfiWord

/-- The four bytes of a word in address order (20_memory.md R82). -/
def bytesOfWord (w : InstrWord) : List Byte :=
  [w.extractLsb' 0 8, w.extractLsb' 8 8, w.extractLsb' 16 8, w.extractLsb' 24 8]

/-- The bytes of an instruction in address order. -/
def encode (i : Instr) : List Byte := bytesOfWord (encodeWord i)

/-- One row of the opcode map (R105, spec/opcode_table.json). -/
structure TableRow where
  mnemonic : String
  matchBits : InstrWord
  maskBits : InstrWord
  deriving DecidableEq, Repr

/-- The opcode table: the columns `match` and `mask` of R105 and R103. -/
def opcodeTable : List TableRow :=
  [⟨"csrrw", 0x00001073#32, 0x0000707F#32⟩, ⟨"csrrs", 0x00002073#32, 0x0000707F#32⟩,
   ⟨"csrrc", 0x00003073#32, 0x0000707F#32⟩, ⟨"csrrwi", 0x00005073#32, 0x0000707F#32⟩,
   ⟨"csrrsi", 0x00006073#32, 0x0000707F#32⟩, ⟨"csrrci", 0x00007073#32, 0x0000707F#32⟩,
   ⟨"mret", 0x30200073#32, 0xFFFFFFFF#32⟩, ⟨"sret", 0x10200073#32, 0xFFFFFFFF#32⟩,
   ⟨"wfi", 0x10500073#32, 0xFFFFFFFF#32⟩]

/-- `w & mask(I) == match(I)` (R105). -/
def TableRow.selects (r : TableRow) (w : InstrWord) : Bool := w &&& r.maskBits == r.matchBits

/-- The mnemonic of an instruction, as the table spells it. -/
def Instr.mnemonic : Instr → String
  | .csrrw _ _ _ => "csrrw"
  | .csrrs _ _ _ => "csrrs"
  | .csrrc _ _ _ => "csrrc"
  | .csrrwi _ _ _ => "csrrwi"
  | .csrrsi _ _ _ => "csrrsi"
  | .csrrci _ _ _ => "csrrci"
  | .mret => "mret"
  | .sret => "sret"
  | .wfi => "wfi"

/-- The low `nbits` bits of `w`, with zeros above, as the word the opcode table numbers them in. -/
def tableWord (nbits w : Nat) : InstrWord := BitVec.ofNat 32 (w % 2 ^ nbits)

/-- The instruction the decoder reads from the bits `w` of a table row. -/
def decodeTableWord (nbits w : Nat) : Option Instr :=
  match decode (bytesOfWord (tableWord nbits w)) with
  | .ok (i, _) => some i
  | .error _ => none

end Sys2Proof
end

