-- ==== Sys2Proof/Machine/State.lean ====
section
/-! DEFINITION. The state of the machine, the reasons a step can stop, and the state after reset
(10_state.md, 70_reset_and_hazards.md section 1). -/

namespace Sys2Proof.Machine

/-- The machine stops with a fault. -/
inductive Fault where
  /-- The fetch reads a byte of memory that nothing has written. Raised by the fetch. Safe: the spec gives memory no
  contents (20_memory.md R92), and the machine stops where the hardware would go on. Log 5. -/
  | unwrittenByte (a : Word)
  deriving DecidableEq, Repr

/-- The model gives the instruction no meaning. -/
inductive Refusal where
  /-- An instruction with no meaning yet. Raised by the dispatch arm. Safe. -/
  | notModelled (mnemonic : String)
  /-- The word at `pc` is none of the nine instructions: "the model must refuse it" (30_encoding.md R100). Raised by the
  fetch. Safe. -/
  | outsideSpec (e : DecodeError)
  /-- A CSR instruction names another CSR than `mstatus`: "refused by the model (out of scope), not trapped"
  (30_encoding.md R101). Raised by the six CSR meanings. Safe. -/
  | csrOutOfScope (csr : CsrAddr)
  /-- `sret` with `V` = 1 below M-mode: "The model refuses" (41_trap_return.md R154). Raised by `sret`. Safe. -/
  | sretVirtual
  /-- `wfi` with `V` = 1 and TW = 0 below M-mode: "the model refuses" (42_wfi_and_gated_instructions.md R166). Raised by
  `wfi`. Safe. -/
  | wfiVirtual
  /-- `pc` is not 4-byte aligned, which the spec assumes it is (10_state.md R64, 20_memory.md R90). Raised by the fetch.
  Safe. Log 16. -/
  | misalignedFetch
  deriving DecidableEq, Repr

/-- Memory: the bytes that have been written, by address, rising. An address not listed has no value. -/
abbrev Memory := List Host.Cell

/-- The state of the machine. INVENTORY.md lists every field with its rule and its reset value. -/
structure State where
  /-- The stored fields of `mstatus` (10_state.md R20). -/
  mstatus : Mstatus
  /-- The current nominal privilege level (R60). -/
  priv : Priv
  /-- The current virtualization mode `V` (R61). -/
  v : Bool
  /-- The integer registers `x[1]` to `x[31]`; `x[0]` has no storage (R62). -/
  x : Vector Word 31
  /-- The program counter (R64). -/
  pc : Word
  /-- The progress of the `wfi` wait: the steps it has waited (R68). -/
  wfiWaited : Nat
  /-- The memory instructions are fetched from (20_memory.md R82). -/
  mem : Memory
  /-- The parameters of the implementation (00_scope.md section 4); no step changes them. -/
  cfg : Config.Params
  /-- What the host core reports in the steps to come, one entry a step (R63, R227). The model's own field. -/
  schedule : List Inputs
  /-- Index of the free values used when `schedule` is empty. The model's own field. -/
  draws : Nat
  /-- The cause of the last trap taken, which no rule reads. The model's own field. -/
  lastTrap : Option Cause
  deriving DecidableEq, Repr

/-- `mstatus` after reset: GVA, MPRV and MIE are 0 by R69. Every other stored field is `UNDEFINED_LEGAL` in the spec, and
0 here, log 1 (DESIGN CHOICE). -/
def Mstatus.reset : Mstatus :=
  { mpv := false, gva := false, tsr := false, tw := false, tvm := false, mxr := false, sum := false,
    mprv := false, fs := 0#2, mpp := .U, vs := 0#2, spp := false, mpie := false, spie := false,
    mie := false, sie := false }

/-- The parameters of `State.reset`: the values the spec suggests or decides (R9, R10, R168, R89, R157), logs 7 to 10. -/
def Params.suggested : Config.Params :=
  { fsLegal := ⟨true, true, true⟩
    vsLegal := ⟨true, true, true⟩
    tvmModes := [⟨false, .S⟩]
    tvmTrappedOps := [.satpAccess, .sfenceVma, .sinvalVma, .hgatpAccess, .hfenceGvma]
    sumFaultKind := .illegalInstruction
    mretMpv := .zero }

/-- The machine right after reset (10_state.md R69, 70_reset_and_hazards.md R221, R222). -/
def State.reset : State :=
  { mstatus := Mstatus.reset
    priv := .M
    v := false
    x := Vector.replicate 31 0#64
    pc := 0#64
    wfiWaited := 0
    mem := []
    cfg := Params.suggested
    schedule := []
    draws := 0
    lastTrap := none }

end Sys2Proof.Machine
end

