-- ==== Sys2Proof/Machine/Flags.lean ====
section
/-! DEFINITION. The constant fields and the status flags of `mstatus`: SD, and the context status FS and VS
(10_state.md R25, R66; 42_wfi_and_gated_instructions.md section 3). -/

namespace Sys2Proof.Machine

/-- MBE, "hardwired to 0" (10_state.md R28). -/
def Mstatus.mbe : Bool := false

/-- SBE, hardwired to 0 (R29). -/
def Mstatus.sbe : Bool := false

/-- UBE, hardwired to 0 (R44). -/
def Mstatus.ube : Bool := false

/-- SXL, 1 for ever (R30). -/
def Mstatus.sxl : BitVec 2 := 1#2

/-- UXL, 1 for ever (R31). -/
def Mstatus.uxl : BitVec 2 := 1#2

/-- XS, 0 for ever (R38). -/
def Mstatus.xs : BitVec 2 := 0#2

/-- The context-status value Dirty (R38). -/
def dirty : BitVec 2 := 3#2

/-- SD, computed at every read (R25). -/
def Mstatus.sd (m : Mstatus) : Bool := m.fs == dirty || m.vs == dirty || Mstatus.xs == dirty

/-- Membership in a legal set; 3 is in every one (00_scope.md R9, R10). -/
def legalHas (l : Config.LegalSet) (v : BitVec 2) : Bool :=
  match v.toNat with
  | 0 => l.has0
  | 1 => l.has1
  | 2 => l.has2
  | _ => true

/-- `v` where it is legal, and the value every legal set holds where it is not. -/
def holdLegal (l : Config.LegalSet) (v : BitVec 2) : BitVec 2 := if legalHas l v then v else dirty

/-- `FpEnabled()` (42_wfi_and_gated_instructions.md R169). -/
def Mstatus.fpEnabled (m : Mstatus) : Bool := m.fs != 0#2

/-- `VecEnabled()` (R170). -/
def Mstatus.vecEnabled (m : Mstatus) : Bool := m.vs != 0#2

/-- A unit's use that the gate refuses: any use while the status is Off (R169, R170). -/
def UnitUse.gated (u : UnitUse) (enabled : Bool) : Bool :=
  match u with
  | .notUsed => false
  | .used => !enabled
  | .written => !enabled

/-- The context status after a unit's use: 3 when its state was written (R171, R172). -/
def UnitUse.statusAfter (u : UnitUse) (status : BitVec 2) : BitVec 2 :=
  match u with
  | .notUsed => status
  | .used => status
  | .written => dirty

/-- FS and VS after a host-core instruction that completes (R171, R172). -/
def Mstatus.dirtied (m : Mstatus) (fp vec : UnitUse) : Mstatus :=
  { m with fs := fp.statusAfter m.fs, vs := vec.statusAfter m.vs }

end Sys2Proof.Machine
end

