-- ==== Sys2Proof/Machine/Fields.lean ====
section
/-! DEFINITION. The word software reads from `mstatus` and the write function of every field
(10_state.md section 3, 40_csr_access.md section 2). -/

namespace Sys2Proof.Machine

/-- The code of a privilege level in MPP (60_exceptions.md R185). -/
def Priv.code : Priv → BitVec 2
  | .U => 0#2
  | .S => 1#2
  | .M => 3#2

/-- The privilege level of a 2-bit code; 2 is not a level (R185). -/
def Priv.ofCode (c : BitVec 2) : Option Priv :=
  match c.toNat with
  | 0 => some .U
  | 1 => some .S
  | 2 => none
  | _ => some .M

/-- The privilege level SPP stands for (10_state.md R42, 60_exceptions.md R185). -/
def Priv.ofSpp (spp : Bool) : Priv := if spp then .S else .U

/-- The fields in the order of 10_state.md R48, bit 63 first, with the widths of R21. -/
def Mstatus.bits (m : Mstatus) :=
  BitVec.ofBool m.sd ++ 0#23 ++
  BitVec.ofBool m.mpv ++ BitVec.ofBool m.gva ++
  BitVec.ofBool Mstatus.mbe ++ BitVec.ofBool Mstatus.sbe ++
  Mstatus.sxl ++ Mstatus.uxl ++ 0#9 ++
  BitVec.ofBool m.tsr ++ BitVec.ofBool m.tw ++ BitVec.ofBool m.tvm ++
  BitVec.ofBool m.mxr ++ BitVec.ofBool m.sum ++ BitVec.ofBool m.mprv ++
  Mstatus.xs ++ m.fs ++ m.mpp.code ++ m.vs ++
  BitVec.ofBool m.spp ++ BitVec.ofBool m.mpie ++ BitVec.ofBool Mstatus.ube ++ BitVec.ofBool m.spie ++
  0#1 ++ BitVec.ofBool m.mie ++ 0#1 ++ BitVec.ofBool m.sie ++ 0#1

/-- `ReadMstatus()` (R48); the widths add to 64 (R21). -/
def Mstatus.read (m : Mstatus) : Word := m.bits.cast rfl

/-- The architectural state of the hart, the argument `s` of `UL_MPP`, `UL_FS`, `UL_VS` (00_scope.md R18). -/
def State.arch (s : State) : Arch := ⟨s.mstatus, s.priv, s.v, s.x, s.pc⟩

/-- `UL_MPP(s, csr_value)` (R18). -/
def State.ulMpp (s : State) (w : Word) : Priv := Config.ulMpp s.arch w

/-- `UL_FS(s, csr_value)`, in `legal(FS)` (R18). -/
def State.ulFs (s : State) (w : Word) : BitVec 2 := holdLegal s.cfg.fsLegal (Config.ulFs s.arch w)

/-- `UL_VS(s, csr_value)`, in `legal(VS)` (R18). -/
def State.ulVs (s : State) (w : Word) : BitVec 2 := holdLegal s.cfg.vsLegal (Config.ulVs s.arch w)

/-- `csr_value.FS`, bits 14:13 (10_state.md R21). -/
def fsBits (w : Word) : BitVec 2 := w.extractLsb' 13 2

/-- `csr_value.MPP`, bits 12:11 (R21). -/
def mppBits (w : Word) : BitVec 2 := w.extractLsb' 11 2

/-- `csr_value.VS`, bits 10:9 (R21). -/
def vsBits (w : Word) : BitVec 2 := w.extractLsb' 9 2

/-- `wf_FS` (40_csr_access.md R126). -/
def State.wfFs (s : State) (w : Word) : BitVec 2 :=
  if legalHas s.cfg.fsLegal (fsBits w) then fsBits w else s.ulFs w

/-- `wf_MPP` (R127). -/
def State.wfMpp (s : State) (w : Word) : Priv :=
  match Priv.ofCode (mppBits w) with
  | some p => p
  | none => s.ulMpp w

/-- `wf_VS`, which reads VS (R128, conflict C6). -/
def State.wfVs (s : State) (w : Word) : BitVec 2 :=
  if legalHas s.cfg.vsLegal (vsBits w) then vsBits w else s.ulVs w

/-- `WriteMstatus(csr_value)`: what the stored fields become (R123, R125 to R129). SD, the constant fields and the
reserved bits have no storage, so their bits of `w` are dropped (R124). -/
def State.writeMstatus (s : State) (w : Word) : Mstatus :=
  { mpv := w.getLsbD 39
    gva := w.getLsbD 38
    tsr := w.getLsbD 22
    tw := w.getLsbD 21
    tvm := w.getLsbD 20
    mxr := w.getLsbD 19
    sum := w.getLsbD 18
    mprv := w.getLsbD 17
    fs := s.wfFs w
    mpp := s.wfMpp w
    vs := s.wfVs w
    spp := w.getLsbD 8
    mpie := w.getLsbD 7
    spie := w.getLsbD 5
    mie := w.getLsbD 3
    sie := w.getLsbD 1 }

end Sys2Proof.Machine
end

