-- ==== Sys2Proof/Machine/Operands.lean ====
section
/-! DEFINITION. The operands of the instructions: integer registers and the immediate (10_state.md R62, 30_encoding.md
R104). -/

namespace Sys2Proof.Machine

/-- Where `x[r]` stands in the register file, which holds `x[1]` first. -/
def regIndex (r : Reg) : Nat := r.toNat - 1

theorem regIndex_lt (r : Reg) : regIndex r < 31 := by
  have := r.isLt
  simp only [regIndex]
  omega

/-- `x[r]`; "`x[0]` reads 0" (R62). -/
def State.readX (s : State) (r : Reg) : Word :=
  if r = 0#5 then 0#64 else s.x[regIndex r]'(regIndex_lt r)

/-- `x[r] <- v`; "a write to `x[0]` is discarded" (00_scope.md R13, R62). -/
def State.writeX (s : State) (r : Reg) (v : Word) : State :=
  if r = 0#5 then s else { s with x := s.x.set (regIndex r) v (regIndex_lt r) }

/-- `zext_64(uimm)` (R104). -/
def immOperand (uimm : BitVec 5) : Word := uimm.setWidth 64

end Sys2Proof.Machine
end

