-- ==== Sys2Proof/Machine/Ops.lean ====
section
/-! DEFINITION. The named operations: memory, fetch, the inputs of a step, taking a trap and returning from one
(20_memory.md R82; 60_exceptions.md section 4; 41_trap_return.md). -/

namespace Sys2Proof.Machine

/-- The canonical form of memory: addresses strictly rising and in the 64-bit address space (R80). -/
abbrev Memory.wf (m : Memory) : Prop :=
  m.Pairwise (fun c d => c.1 < d.1) ∧ ∀ c ∈ m, c.1 < 2 ^ 64

/-- The byte listed at an address, if any. -/
def Memory.find : Memory → Nat → Option Byte
  | [], _ => none
  | (c, b) :: m, a => if c = a then some b else Memory.find m a

/-- The list with a byte put at an address, in order. -/
def Memory.insert : Memory → Nat → Byte → Memory
  | [], a, b => [(a, b)]
  | (c, d) :: m, a, b =>
    if a < c then (a, b) :: (c, d) :: m
    else if a = c then (a, b) :: m
    else (c, d) :: Memory.insert m a b

/-- The byte at an address; none where nothing has been written (log 5). -/
def Memory.readByte (m : Memory) (a : Word) : Option Byte := Memory.find m a.toNat

/-- Memory with a byte written. -/
def Memory.writeByte (m : Memory) (a : Word) (b : Byte) : Memory := Memory.insert m a.toNat b

/-- The word at an address, little-endian (R82), or the first address that has no value. -/
def Memory.readWord (m : Memory) (a : Word) : Except Word InstrWord :=
  match m.readByte a, m.readByte (a + 1), m.readByte (a + 2), m.readByte (a + 3) with
  | some b0, some b1, some b2, some b3 => .ok (wordOfBytes b0 b1 b2 b3)
  | none, _, _, _ => .error a
  | _, none, _, _ => .error (a + 1)
  | _, _, none, _ => .error (a + 2)
  | _, _, _, none => .error (a + 3)

/-- Memory with a word written, little-endian (R82). -/
def Memory.writeWord (m : Memory) (a : Word) (w : InstrWord) : Memory :=
  (((m.writeByte a (w.extractLsb' 0 8)).writeByte (a + 1) (w.extractLsb' 8 8)).writeByte (a + 2)
    (w.extractLsb' 16 8)).writeByte (a + 3) (w.extractLsb' 24 8)

/-- Memory with a list of bytes written, the first one first. -/
def Memory.writeBytes : Memory → List (Word × Byte) → Memory
  | m, [] => m
  | m, (a, b) :: rest => (m.writeByte a b).writeBytes rest

/-- Whether an address is a multiple of 4 (10_state.md R64, 20_memory.md R90). -/
def aligned4 (a : Word) : Bool := a.extractLsb' 0 2 == 0#2

/-- The address with its low two bits cleared. -/
def alignDown (a : Word) : Word := a &&& ~~~3#64

/-- The instruction at `pc`: 32 bits, little-endian, whatever the data byte order (R82, 30_encoding.md R109). -/
def State.fetch (s : State) : Host.Outcome Instr Fault Refusal :=
  if aligned4 s.pc then
    match s.mem.readWord s.pc with
    | .error a => .fault (.unwrittenByte a)
    | .ok w =>
      match decodeWord w with
      | .ok i => .next i
      | .error e => .refused (.outsideSpec e)
  else .refused .misalignedFetch

/-- The inputs of a step nothing is scheduled for: no event and no interrupt, and free values (log 6). -/
def freeInputs (n : Nat) : Inputs :=
  { event := none
    mIntReady := false
    sIntReady := false
    wfiTimedOut := Config.freeWfiTimedOut n
    wfiWaits := Config.freeWfiWaits n
    sretNewV := Config.freeSretNewV n
    trapMode := Config.freeTrapMode n
    gvaWritten := Config.freeGvaWritten n
    trapTarget := Config.freeTrapTarget n
    retTarget := Config.freeRetTarget n }

/-- The inputs of the step (10_state.md R63, R64). -/
def State.input (s : State) : Inputs :=
  match s.schedule with
  | [] => freeInputs s.draws
  | i :: _ => i

/-- The inputs of the next step come up. -/
def State.nextInput (s : State) : State := { s with schedule := s.schedule.tail, draws := s.draws + 1 }

/-- The inputs with no event and no interrupt in them. -/
def Inputs.quiet (i : Inputs) : Inputs := { i with event := none, mIntReady := false, sIntReady := false }

/-- The schedule with nothing in its first entry that keeps the instruction at `pc` from running. -/
def quietHead : List Inputs → List Inputs
  | [] => []
  | i :: rest => i.quiet :: rest

/-- `pc <- pc + 4`, modulo 2^64 (10_state.md R64, 40_csr_access.md R140). -/
def State.advancePc (s : State) : State := { s with pc := s.pc + 4#64 }

/-- The mode the hart is in (10_state.md R61). -/
def State.mode (s : State) : Mode := ⟨s.v, s.priv⟩

/-- `EffLdSt()`, the mode loads and stores are made as (20_memory.md R84). -/
def State.effLdSt (s : State) : Mode :=
  if s.mstatus.mprv then
    if s.mstatus.mpp = .M then ⟨false, .M⟩ else ⟨s.mstatus.mpv, s.mstatus.mpp⟩
  else s.mode

/-- Whether a load or a store raised the exception. The kind of a page fault says so itself. -/
def Cause.madeAccess : Cause → Bool
  | .exception (some (.pageFault .fetch)) _ => false
  | .exception (some (.pageFault .load)) _ => true
  | .exception (some (.pageFault .store)) _ => true
  | .exception (some .illegalInstruction) byAccess => byAccess
  | .exception none byAccess => byAccess
  | .interrupt => false

/-- `gva_written`: the input, which can be true only when `V` is 1, or when the trap is raised by a load or a store that
was made as `V` = 1 through MPRV (60_exceptions.md R197). Log 13. -/
def State.gvaWritten (s : State) (c : Cause) : Bool :=
  s.input.gvaWritten && (s.v || (c.madeAccess && s.effLdSt.v))

/-- A trap never lowers privilege (60_exceptions.md R194). -/
def State.trapModeAllowed (s : State) : TrapMode → Bool
  | .M => true
  | .HS => s.priv != .M
  | .VS => s.v && s.priv != .M

/-- `trap_target_mode`: the input where R194 allows it; target M-mode is possible from every mode. Log 12. -/
def State.trapMode (s : State) : TrapMode :=
  if s.trapModeAllowed s.input.trapMode then s.input.trapMode else .M

/-- What every trap entry does outside `mstatus`, `priv` and `V`: `pc <- trap_target` (R64, R196, R198). A wait is over. -/
def State.toHandler (s : State) (c : Cause) : State :=
  { s with pc := s.input.trapTarget, wfiWaited := 0, lastTrap := some c }

/-- Trap entry into M-mode (60_exceptions.md R196, R197). -/
def State.enterM (s : State) (c : Cause) : State :=
  { s.toHandler c with
    mstatus := { s.mstatus with
      mpv := s.v
      gva := s.gvaWritten c
      mpp := s.priv
      mpie := s.mstatus.mie
      mie := false }
    priv := .M
    v := false }

/-- Trap entry into HS-mode (R198). -/
def State.enterHS (s : State) (c : Cause) : State :=
  { s.toHandler c with
    mstatus := { s.mstatus with
      spp := s.priv == .S
      spie := s.mstatus.sie
      sie := false }
    priv := .S
    v := false }

/-- Trap entry into VS-mode, which writes no field of `mstatus` (R199). -/
def State.enterVS (s : State) (c : Cause) : State :=
  { s.toHandler c with
    priv := .S
    v := true }

/-- Trap entry into a given mode. -/
def State.enter (s : State) (m : TrapMode) (c : Cause) : State :=
  match m with
  | .M => s.enterM c
  | .HS => s.enterHS c
  | .VS => s.enterVS c

/-- The one trap entry of an exception, into the mode the inputs name, held to R194 (R195). -/
def State.trap (s : State) (c : Cause) : State := s.enter s.trapMode c

/-- `raise E` by an instruction of the opcode table: it has no effect of its own, and one trap entry happens (R195). None
of the nine makes a load or a store (20_memory.md R96). -/
def State.raise (s : State) (e : Exc) : State := s.trap (.exception (some e) false)

/-- What MPV holds after `mret` (41_trap_return.md R157). -/
def State.mpvAfterMret (s : State) : Bool :=
  match s.cfg.mretMpv with
  | .zero => false
  | .unchanged => s.mstatus.mpv

/-- The return of `mret` (41_trap_return.md R150, R155, R157). Every right-hand side reads the state before. -/
def State.returnM (s : State) : State :=
  { s with
    mstatus := { s.mstatus with
      mie := s.mstatus.mpie
      mpie := true
      mpp := .U
      mprv := false
      mpv := s.mpvAfterMret }
    priv := s.mstatus.mpp
    v := bif s.mstatus.mpp == .M then false else s.mstatus.mpv
    pc := s.input.retTarget }

/-- The return of `sret` (R152, R155). -/
def State.returnS (s : State) : State :=
  { s with
    mstatus := { s.mstatus with
      sie := s.mstatus.spie
      spie := true
      spp := false
      mprv := false }
    priv := Priv.ofSpp s.mstatus.spp
    v := s.input.sretNewV
    pc := s.input.retTarget }

end Sys2Proof.Machine
end

