-- ==== Sys2Proof/Machine/Csr.lean ====
section
/-! DEFINITION. The six CSR instructions on `mstatus` (40_csr_access.md). -/

namespace Sys2Proof.Machine

/-- Steps 2 to 5 of a CSR instruction (R120): read the old value, write `csr_value` if the instruction writes, put the old
value in `rd`, advance. A read that goes to `x[0]` cannot be observed (R130). -/
def State.csrAccess (s : State) (rd : Reg) (csrValue : Option Word) : State :=
  let m := match csrValue with
    | some w => s.writeMstatus w
    | none => s.mstatus
  (({ s with mstatus := m }).writeX rd s.mstatus.read).advancePc

/-- Step 1, the privilege check (R120, R121), and the scope of the `csr` field (30_encoding.md R101). -/
def csrInstr (csr : CsrAddr) (s : State) (completed : State) : Host.Outcome State Fault Refusal :=
  if csr = mstatusAddr then
    .next (if s.priv = .M then completed else s.raise .illegalInstruction)
  else .refused (.csrOutOfScope csr)

/-- `csr_value` of a set form: no write when the operand field is 0 (R131, R134). -/
def setValue (field : BitVec 5) (t src : Word) : Option Word :=
  if field = 0#5 then none else some (t ||| src)

/-- `csr_value` of a clear form: no write when the operand field is 0 (R132, R135). -/
def clearValue (field : BitVec 5) (t src : Word) : Option Word :=
  if field = 0#5 then none else some (t &&& ~~~src)

/-- `csrrw rd, mstatus, rs1` (R130). -/
def execCsrrw (csr : CsrAddr) (rd rs1 : Reg) (s : State) : Host.Outcome State Fault Refusal :=
  csrInstr csr s (s.csrAccess rd (some (s.readX rs1)))

/-- `csrrs rd, mstatus, rs1` (R131). -/
def execCsrrs (csr : CsrAddr) (rd rs1 : Reg) (s : State) : Host.Outcome State Fault Refusal :=
  csrInstr csr s (s.csrAccess rd (setValue rs1 s.mstatus.read (s.readX rs1)))

/-- `csrrc rd, mstatus, rs1` (R132). -/
def execCsrrc (csr : CsrAddr) (rd rs1 : Reg) (s : State) : Host.Outcome State Fault Refusal :=
  csrInstr csr s (s.csrAccess rd (clearValue rs1 s.mstatus.read (s.readX rs1)))

/-- `csrrwi rd, mstatus, uimm` (R133). -/
def execCsrrwi (csr : CsrAddr) (rd : Reg) (uimm : BitVec 5) (s : State) : Host.Outcome State Fault Refusal :=
  csrInstr csr s (s.csrAccess rd (some (immOperand uimm)))

/-- `csrrsi rd, mstatus, uimm` (R134). -/
def execCsrrsi (csr : CsrAddr) (rd : Reg) (uimm : BitVec 5) (s : State) : Host.Outcome State Fault Refusal :=
  csrInstr csr s (s.csrAccess rd (setValue uimm s.mstatus.read (immOperand uimm)))

/-- `csrrci rd, mstatus, uimm` (R135). -/
def execCsrrci (csr : CsrAddr) (rd : Reg) (uimm : BitVec 5) (s : State) : Host.Outcome State Fault Refusal :=
  csrInstr csr s (s.csrAccess rd (clearValue uimm s.mstatus.read (immOperand uimm)))

end Sys2Proof.Machine
end

