-- ==== Sys2Proof/Machine/TrapReturn.lean ====
section
/-! DEFINITION. `mret` and `sret` (41_trap_return.md). -/

namespace Sys2Proof.Machine

/-- `mret` (R150); below M-mode it raises Illegal Instruction (R151). -/
def execMret (s : State) : Host.Outcome State Fault Refusal :=
  .next (if s.priv = .M then s.returnM else s.raise .illegalInstruction)

/-- `sret`: it returns in M-mode, and in HS-mode with TSR = 0 (R152); TSR = 1 in HS-mode and U-mode raise Illegal
Instruction (R153); below M-mode with `V` = 1 the model refuses (R154). -/
def execSret (s : State) : Host.Outcome State Fault Refusal :=
  match s.priv, s.v with
  | .M, _ => .next s.returnS
  | .S, true => .refused .sretVirtual
  | .U, true => .refused .sretVirtual
  | .S, false => .next (if s.mstatus.tsr then s.raise .illegalInstruction else s.returnS)
  | .U, false => .next (s.raise .illegalInstruction)

end Sys2Proof.Machine
end

