-- ==== Sys2Proof/Machine/Wfi.lean ====
section
/-! DEFINITION. `wfi` (42_wfi_and_gated_instructions.md section 1). -/

namespace Sys2Proof.Machine

/-- How `wfi` may go in a mode (R166): it may wait for ever and never traps; it must trap if the wait period elapses;
or the spec does not say. -/
inductive WfiRule where
  | mayWaitForever
  | mustTrapAfterPeriod
  | outOfScope
  deriving DecidableEq, Repr

/-- The table of R166, by `priv`, `V` and TW. -/
def wfiRule (priv : Priv) (v tw : Bool) : WfiRule :=
  match priv, v, tw with
  | .M, _, _ => .mayWaitForever
  | .S, false, false => .mayWaitForever
  | .S, false, true => .mustTrapAfterPeriod
  | .U, false, _ => .mustTrapAfterPeriod
  | .S, true, true => .mustTrapAfterPeriod
  | .U, true, true => .mustTrapAfterPeriod
  | .S, true, false => .outOfScope
  | .U, true, false => .outOfScope

/-- The wait is over: `pc <- pc + 4` and nothing else (R165). -/
def State.wfiComplete (s : State) : State := { s.advancePc with wfiWaited := 0 }

/-- The wait goes on: the hart is still at the `wfi` (R165: "The model must keep that as a possible behaviour"). -/
def State.wfiWait (s : State) : State := { s with wfiWaited := s.wfiWaited + 1 }

/-- `wfi` (R165, R166). -/
def execWfi (s : State) : Host.Outcome State Fault Refusal :=
  match wfiRule s.priv s.v s.mstatus.tw with
  | .mayWaitForever => .next (if s.input.wfiWaits then s.wfiWait else s.wfiComplete)
  | .mustTrapAfterPeriod =>
    .next (if s.input.wfiTimedOut then s.raise .illegalInstruction else s.wfiComplete)
  | .outOfScope => .refused .wfiVirtual

end Sys2Proof.Machine
end

