-- ==== Sys2Proof/Machine/Dispatch.lean ====
section
/-! DEFINITION. The meaning of each instruction, by constructor. -/

namespace Sys2Proof.Machine

def exec (i : Instr) (s : State) : Host.Outcome State Fault Refusal :=
  match i with
  | .csrrw csr rd rs1 => Sys2Proof.Machine.execCsrrw csr rd rs1 s
  | .csrrs csr rd rs1 => Sys2Proof.Machine.execCsrrs csr rd rs1 s
  | .csrrc csr rd rs1 => Sys2Proof.Machine.execCsrrc csr rd rs1 s
  | .csrrwi csr rd uimm => Sys2Proof.Machine.execCsrrwi csr rd uimm s
  | .csrrsi csr rd uimm => Sys2Proof.Machine.execCsrrsi csr rd uimm s
  | .csrrci csr rd uimm => Sys2Proof.Machine.execCsrrci csr rd uimm s
  | .mret => Sys2Proof.Machine.execMret s
  | .sret => Sys2Proof.Machine.execSret s
  | .wfi => Sys2Proof.Machine.execWfi s

end Sys2Proof.Machine
end

