-- ==== Sys2Proof/Machine/Protect.lean ====
section
/-! DEFINITION. How `mstatus` changes the memory accesses of the hart: the functions a host-core model calls
(20_memory.md), and the TVM gate (42_wfi_and_gated_instructions.md R168). -/

namespace Sys2Proof.Machine

/-- Byte orders of data (20_memory.md R81). -/
inductive ByteOrder where
  | little
  | big
  deriving DecidableEq, Repr

/-- The byte order an MBE, SBE or UBE bit selects: "0 = little, 1 = big" (10_state.md R28). -/
def ByteOrder.ofBit (b : Bool) : ByteOrder := if b then .big else .little

/-- The byte order of data accesses made as a mode; with `V` = 1 it is not in the source (R81). -/
def Mode.dataByteOrder (m : Mode) : Option ByteOrder :=
  if m.v then none
  else match m.priv with
    | .M => some (.ofBit Mstatus.mbe)
    | .S => some (.ofBit Mstatus.sbe)
    | .U => some (.ofBit Mstatus.ube)

/-- The width an SXL or UXL code stands for; the page does not list 3 (R86). -/
def xlenOfCode (c : BitVec 2) : Option Nat :=
  match c.toNat with
  | 0 => some 32
  | 1 => some 64
  | 2 => some 128
  | _ => none

/-- The effective XLEN of a mode; with `V` = 1 it is not in the source (R86). -/
def Mode.xlen (m : Mode) : Option Nat :=
  if m.v then none
  else match m.priv with
    | .M => some 64
    | .S => xlenOfCode Mstatus.sxl
    | .U => xlenOfCode Mstatus.uxl

/-- The mode instruction fetch is made as, whatever MPRV (R85). -/
def State.fetchMode (s : State) : Mode := s.mode

/-- `LoadReadable(R, X)` (R87). -/
def State.loadReadable (s : State) (r x : Bool) : Bool := r || (s.mstatus.mxr && x)

/-- `SumViolation(U)`, with S-mode read as HS-mode (R88). -/
def State.sumViolation (s : State) (u : Bool) : Bool :=
  !s.mstatus.sum && u &&
    ((s.priv == .S && !s.v) || (s.priv == .M && s.mstatus.mprv && s.mstatus.mpp == .S))

/-- The exception a SUM violation of a load raises: `SUM_FAULT_KIND` (R89). -/
def State.sumFault (s : State) : Exc :=
  match s.cfg.sumFaultKind with
  | .illegalInstruction => .illegalInstruction
  | .pageFault => .pageFault .load

/-- The exception the two page checks of a load raise, if any (R87, R88); the event says which check is made first. -/
def State.loadFault (s : State) (p : PageLoad) : Option Exc :=
  let mxrFault := if s.loadReadable p.r p.x then none else some (Exc.pageFault .load)
  let sumFault := if s.sumViolation p.u then some s.sumFault else none
  if p.sumFirst then sumFault.or mxrFault else mxrFault.or sumFault

/-- `TvmTraps(op)` (R168). -/
def State.tvmTraps (s : State) (op : VmOp) : Bool :=
  s.mstatus.tvm && s.cfg.tvmModes.contains s.mode && s.cfg.tvmTrappedOps.contains op

/-- The cause code of an exception (60_exceptions.md R189), which no rule reads. -/
def Exc.code : Exc → Nat
  | .illegalInstruction => 2
  | .pageFault .fetch => 12
  | .pageFault .load => 13
  | .pageFault .store => 15

end Sys2Proof.Machine
end

