-- ==== Sys2Proof/Machine/HostCore.lean ====
section
/-! DEFINITION. The steps that are not the instruction at `pc` (70_reset_and_hazards.md R227): interrupts, host-core
instructions, trap entries of the host core, and reset. -/

namespace Sys2Proof.Machine

/-- `MIntGloballyEnabled()` (60_exceptions.md R190). -/
def State.mIntGloballyEnabled (s : State) : Bool := (s.priv == .M && s.mstatus.mie) || s.priv != .M

/-- `SIntGloballyEnabled()` (R191). -/
def State.sIntGloballyEnabled (s : State) : Bool :=
  s.priv != .M && ((s.priv == .S && !s.v && s.mstatus.sie) || (s.priv == .U && !s.v) || s.v)

/-- The entry of an interrupt that is ready and enabled, an M-mode interrupt before an HS-mode one (R192, R201). -/
def State.interruptEntry (s : State) : Option State :=
  if s.input.mIntReady && s.mIntGloballyEnabled then some (s.enterM .interrupt)
  else if s.input.sIntReady && s.sIntGloballyEnabled then some (s.enterHS .interrupt)
  else none

/-- Whether a host-core instruction is refused at decode: the FS, VS and TVM gates
(42_wfi_and_gated_instructions.md R168, R169, R170). -/
def State.gateRefuses (s : State) (h : HostInstr) : Bool :=
  h.fp.gated s.mstatus.fpEnabled || h.vec.gated s.mstatus.vecEnabled ||
    (match h.vmOp with
      | some op => s.tvmTraps op
      | none => false)

/-- The exception a host-core instruction raises by this spec, if any; the gates come before the memory access
(60_exceptions.md R201), and only a page check is raised by an access. -/
def State.hostFault (s : State) (h : HostInstr) : Option Cause :=
  if s.gateRefuses h then some (.exception (some .illegalInstruction) false)
  else match h.load with
    | some p => (s.loadFault p).map fun e => .exception (some e) true
    | none => none

/-- What a host-core instruction writes outside `mstatus` and `pc`, as the host core reports it. -/
def State.hostWrites (s : State) (h : HostInstr) : State :=
  let t := { s with mem := s.mem.writeBytes h.fetchBytes }
  match h.xWrite with
  | some (r, w) => t.writeX r w
  | none => t

/-- A host-core instruction that completes: FS and VS follow what it wrote (42_wfi_and_gated_instructions.md R171,
R172). DESIGN CHOICE, log 14: when one completes while a `wfi` waits, the wait is over, with no completion or trap of that
`wfi`; which events end a wait is not in the source (91_not_in_source.md N9). -/
def State.hostComplete (s : State) (h : HostInstr) : State :=
  { s.hostWrites h with mstatus := s.mstatus.dirtied h.fp h.vec, pc := h.nextPc, wfiWaited := 0 }

/-- A host-core instruction: it raises and writes nothing (60_exceptions.md R195), or it completes. -/
def State.hostInstr (s : State) (h : HostInstr) : State :=
  match s.hostFault h with
  | some c => s.trap c
  | none => s.hostComplete h

/-- The entry of an interrupt into VS-mode, where R194 allows it; its enable is the host core's. Log 28. -/
def State.vsInterruptEntry (s : State) : Option State :=
  if s.trapModeAllowed .VS then some (s.enterVS .interrupt) else none

/-- `mstatus` after a reset (70_reset_and_hazards.md R221): GVA, MPRV and MIE are 0, the other fields are drawn, FS and VS
from their legal sets. -/
def resetMstatus (cfg : Config.Params) (d : Mstatus) : Mstatus :=
  { d with
    gva := false
    mprv := false
    mie := false
    fs := holdLegal cfg.fsLegal d.fs
    vs := holdLegal cfg.vsLegal d.vs }

/-- The reset event (R220, R221, R222). Log 19. -/
def State.resetBy (s : State) (d : ResetDraw) : State :=
  { s with
    mstatus := resetMstatus s.cfg d.mstatus
    priv := .M
    v := false
    x := d.x
    pc := d.resetVector
    wfiWaited := 0
    lastTrap := none }

/-- What the step does instead of the instruction at `pc`, if anything. Log 18. -/
def State.hostMove (s : State) : Option State :=
  match s.input.event with
  | some (.reset d) => some (s.resetBy d)
  | some (.hostInstr h) => some (s.interruptEntry.getD (s.hostInstr h))
  | some (.exception e byAccess) => some (s.interruptEntry.getD (s.trap (.exception e byAccess)))
  | some .vsInterrupt => s.interruptEntry.or s.vsInterruptEntry
  | none => s.interruptEntry

/-- An outcome with the inputs of the next step brought up. -/
def withNextInput : Host.Outcome State Fault Refusal → Host.Outcome State Fault Refusal
  | .next t => .next t.nextInput
  | .fault f => .fault f
  | .refused r => .refused r

end Sys2Proof.Machine
end

