-- ==== Sys2Proof/Machine/Step.lean ====
section
/-! DEFINITION. One step of the machine (70_reset_and_hazards.md R227). -/

namespace Sys2Proof.Machine

/-- One step: what the host core reports, or else the instruction at `pc` (R227; 60_exceptions.md R192, R201). -/
def step (s : State) : Host.Outcome State Fault Refusal :=
  match s.hostMove with
  | some t => .next t.nextInput
  | none =>
    match s.fetch with
    | .next i => withNextInput (exec i s)
    | .fault f => .fault f
    | .refused r => .refused r

/-- `s` with the instruction of bits `w` placed where the next step fetches, and nothing scheduled that would keep it from
running. -/
def State.withFetchWord (s : State) (nbits w : Nat) : State :=
  { s with
    pc := alignDown s.pc
    mem := s.mem.writeWord (alignDown s.pc) (tableWord nbits w)
    schedule := quietHead s.schedule }

end Sys2Proof.Machine
end

