-- ==== Sys2Proof/Safety.lean ====
section
/-! DEFINITION. The terms claims are stated in: the invariant of the machine, what a trap entry leaves, what an instruction
leaves unchanged, and which states a reset can give. -/

namespace Sys2Proof.Machine

/-- Every legal state (10_state.md R49, R61; 41_trap_return.md R156): M-mode has `V` = 0, MPRV is set in M-mode only, FS
and VS are legal, memory is in canonical form. MPP and the reserved bits are legal by the types. -/
abbrev State.Inv (s : State) : Prop :=
  (s.priv = .M → s.v = false) ∧
  (s.mstatus.mprv = true → s.priv = .M) ∧
  legalHas s.cfg.fsLegal s.mstatus.fs = true ∧
  legalHas s.cfg.vsLegal s.mstatus.vs = true ∧
  s.mem.wf

/-- What no instruction changes: memory, by its bytes, the parameters, and the inputs that the step is read from. -/
def SameSurroundings (s t : State) : Prop :=
  (∀ a, t.mem.readByte a = s.mem.readByte a) ∧ t.cfg = s.cfg ∧ t.schedule = s.schedule ∧ t.draws = s.draws

/-- The integer registers are unchanged. -/
def SameRegisters (s t : State) : Prop := ∀ r, t.readX r = s.readX r

/-- `mstatus`, `priv` and `V` after a trap entry for a cause into a mode (60_exceptions.md R196, R198, R199), field by
field. -/
def EnteredMode (s t : State) (c : Cause) : TrapMode → Prop
  | .M =>
    t.mstatus = { s.mstatus with
      mpv := s.v, gva := s.gvaWritten c, mpp := s.priv, mpie := s.mstatus.mie, mie := false } ∧
    t.priv = .M ∧ t.v = false
  | .HS =>
    t.mstatus = { s.mstatus with spp := s.priv == .S, spie := s.mstatus.sie, sie := false } ∧
    t.priv = .S ∧ t.v = false
  | .VS => t.mstatus = s.mstatus ∧ t.priv = .S ∧ t.v = true

/-- A trap for a cause was taken into a mode, and nothing else happened (R195). -/
def TrapTaken (s t : State) (m : TrapMode) (c : Cause) : Prop :=
  EnteredMode s t c m ∧ t.pc = s.input.trapTarget ∧ t.wfiWaited = 0 ∧ t.lastTrap = some c ∧
  SameRegisters s t ∧ SameSurroundings s t

/-- An exception was raised (R195), by a load or a store or not: a trap was taken into a mode R194 allows, the one the
inputs name where that is allowed. -/
def ExceptionTaken (s t : State) (e : Exc) (byAccess : Bool) : Prop :=
  ∃ m, s.trapModeAllowed m = true ∧ (s.trapModeAllowed s.input.trapMode = true → m = s.input.trapMode) ∧
    TrapTaken s t m (.exception (some e) byAccess)

/-- Illegal Instruction was raised by a privilege check or a gate (R187). -/
def IllegalTaken (s t : State) : Prop := ExceptionTaken s t .illegalInstruction false

/-- A CSR instruction completed: `mstatus` became `m`, `rd` took the old value unless it is `x[0]`, `pc` advanced, and
nothing else changed (40_csr_access.md R120, R139). -/
def CsrCompleted (s t : State) (rd : Reg) (m : Mstatus) : Prop :=
  t.mstatus = m ∧
  (∀ r, t.readX r = if r = rd ∧ r ≠ 0#5 then s.mstatus.read else s.readX r) ∧
  t.pc = s.pc + 4#64 ∧
  t.priv = s.priv ∧ t.v = s.v ∧ t.wfiWaited = s.wfiWaited ∧ t.lastTrap = s.lastTrap ∧
  SameSurroundings s t

/-- A host-core instruction completed (70_reset_and_hazards.md R227): what the host core reports of it, the context status of
the units it wrote (42_wfi_and_gated_instructions.md R171, R172), and nothing else. That a wait of `wfi` is over is the
model's choice (log 14). -/
def HostCompleted (s t : State) (h : HostInstr) : Prop :=
  t.mstatus = { s.mstatus with
    fs := if h.fp = .written then 3#2 else s.mstatus.fs
    vs := if h.vec = .written then 3#2 else s.mstatus.vs } ∧
  t.pc = h.nextPc ∧ t.priv = s.priv ∧ t.v = s.v ∧
  (∀ r, t.readX r = match h.xWrite with
    | some (rd, w) => if r = rd ∧ r ≠ 0#5 then w else s.readX r
    | none => s.readX r) ∧
  t.mem = s.mem.writeBytes h.fetchBytes ∧ t.wfiWaited = 0 ∧ t.lastTrap = s.lastTrap ∧
  t.cfg = s.cfg ∧ t.schedule = s.schedule ∧ t.draws = s.draws

/-- The fields a reset fixes, and the ranges it draws the others from (70_reset_and_hazards.md R221). MPP is 0, 1 or 3 by
its type, the constants and the reserved bits by `Mstatus.read`. -/
abbrev Mstatus.isReset (cfg : Config.Params) (m : Mstatus) : Prop :=
  m.gva = false ∧ m.mprv = false ∧ m.mie = false ∧
  legalHas cfg.fsLegal m.fs = true ∧ legalHas cfg.vsLegal m.vs = true

/-- The step is a reset (R220). -/
def State.resets (s : State) : Prop := ∃ d, s.input.event = some (.reset d)

end Sys2Proof.Machine
end

