-- ==== Sys2Proof/Certificates/Slice0/Obligations.lean ====
section
/-! DEFINITION. The statements for the provers. Each docstring names the rule of spec/ or, where a clause rests on the
spec's own inference or decision or on a choice of the model, says so. -/

open Sys2Proof Sys2Proof.Machine

/-! Encoding. -/

/-- Words of 30_encoding.md R103 and R112, in their bytes, decode to the instructions they are listed for. R112 is marked
[derived] in the spec. -/
def Obligations.WorkedEncodingsDecode : Prop :=
  decode [0x73#8, 0x90#8, 0x02#8, 0x30#8] = .ok (.csrrw 0x300#12 0#5 5#5, []) ∧
  decode [0x73#8, 0x25#8, 0x00#8, 0x30#8] = .ok (.csrrs 0x300#12 10#5 0#5, []) ∧
  decode [0x73#8, 0xB0#8, 0x02#8, 0x30#8] = .ok (.csrrc 0x300#12 0#5 5#5, []) ∧
  decode [0xF3#8, 0x55#8, 0x04#8, 0x30#8] = .ok (.csrrwi 0x300#12 11#5 8#5, []) ∧
  decode [0x73#8, 0x60#8, 0x04#8, 0x30#8] = .ok (.csrrsi 0x300#12 0#5 8#5, []) ∧
  decode [0x73#8, 0x70#8, 0x04#8, 0x30#8] = .ok (.csrrci 0x300#12 0#5 8#5, []) ∧
  decode [0x73#8, 0x00#8, 0x20#8, 0x30#8] = .ok (.mret, []) ∧
  decode [0x73#8, 0x00#8, 0x20#8, 0x10#8] = .ok (.sret, []) ∧
  decode [0x73#8, 0x00#8, 0x50#8, 0x10#8] = .ok (.wfi, [])

/-- Decoding the bytes of any instruction gives the instruction back, and leaves the bytes after it: every operand at every
value of its field, any `csr` among them (30_encoding.md sections 1 and 3). -/
def Obligations.DecodeOfEncodeIsTheInstruction : Prop :=
  ∀ (i : Instr) (rest : List Byte), decode (encode i ++ rest) = .ok (i, rest)

/-- A word that decodes to an instruction is the word of that instruction: each of the nine has one encoding
(30_encoding.md section 3). -/
def Obligations.EncodeOfDecodeIsTheWord : Prop :=
  ∀ (w : InstrWord) (i : Instr), decodeWord w = .ok i → encodeWord i = w

/-- "A word `w` is instruction `I` when `w & mask(I) == match(I)`" (30_encoding.md R105), both ways; a CSR instruction
names `mstatus` when the word meets the longer mask as well; and a word no row selects is none of the nine. -/
def Obligations.DecodeFollowsMaskAndMatch : Prop :=
  (∀ (w : InstrWord) (r : TableRow), r ∈ opcodeTable →
    (w &&& r.maskBits = r.matchBits ↔ ∃ i, decodeWord w = .ok i ∧ i.mnemonic = r.mnemonic) ∧
    (r.maskBits = 0x0000707F#32 → (w &&& 0xFFF0707F#32 = 0x30000000#32 ||| r.matchBits ↔
      ∃ i, decodeWord w = .ok i ∧ i.mnemonic = r.mnemonic ∧ i.csr? = some 0x300#12))) ∧
  (∀ w : InstrWord, (∀ r ∈ opcodeTable, w &&& r.maskBits ≠ r.matchBits) → ∃ e, decodeWord w = .error e)

/-- A word at an aligned `pc` that no row of the opcode table selects is refused by name when its turn comes, and no trap
is taken (30_encoding.md sections 1 and 3; the spec's decision D19). -/
def Obligations.ForeignWordRefused : Prop :=
  ∀ (s : State) (w : InstrWord), s.hostMove = none → aligned4 s.pc = true → s.mem.readWord s.pc = .ok w →
    (∀ r ∈ opcodeTable, r.selects w = false) → ∃ e, step s = .refused (.outsideSpec e)

/-! A step. -/

/-- When nothing is reported instead, `pc` is 4-byte aligned, and the four bytes at `pc` decode to an instruction, the step
is that instruction's meaning, after which the inputs of the next step come up: the schedule loses its first entry and the
counter of free values goes up by one (20_memory.md section 2; 70_reset_and_hazards.md section 5). -/
def Obligations.StepRunsTheDecodedInstruction : Prop :=
  ∀ (s : State) (b0 b1 b2 b3 : Byte) (i : Instr), s.hostMove = none → aligned4 s.pc = true →
    s.mem.readByte s.pc = some b0 → s.mem.readByte (s.pc + 1) = some b1 →
    s.mem.readByte (s.pc + 2) = some b2 → s.mem.readByte (s.pc + 3) = some b3 →
    decode [b0, b1, b2, b3] = .ok (i, []) →
    step s = match exec i s with
      | .next t => .next { t with schedule := t.schedule.tail, draws := t.draws + 1 }
      | .fault f => .fault f
      | .refused r => .refused r

/-- A word placed by `withFetchWord` is the instruction the next step runs, in every state. -/
def Obligations.PlacedWordRunsNext : Prop :=
  ∀ (s : State) (w : InstrWord) (i : Instr), decodeWord w = .ok i →
    step (s.withFetchWord 32 w.toNat) = withNextInput (exec i (s.withFetchWord 32 w.toNat))

/-- Where the fetch stops by name: at a `pc` that is not 4-byte aligned, and at a byte that nothing has written. Both are
the model's choices (logs 16 and 5). -/
def Obligations.FetchStopsByName : Prop :=
  ∀ s : State, s.hostMove = none →
    (aligned4 s.pc = false → step s = .refused .misalignedFetch) ∧
    (aligned4 s.pc = true → s.mem.readByte s.pc = none → step s = .fault (.unwrittenByte s.pc))

/-! The register: reading and writing. -/

/-- The word read: each field at its bits, the constant fields, the reserved bits as 0, SD computed; MPP never reads 2
(10_state.md sections 1 and 3; R48 and R25 are marked [derived], R24 is the spec's decision D4). -/
def Obligations.ReadWordLayout : Prop :=
  ∀ m : Mstatus,
    m.read.getLsbD 63 = (m.fs == 3#2 || m.vs == 3#2) ∧ m.read.extractLsb' 40 23 = 0#23 ∧
    m.read.getLsbD 39 = m.mpv ∧ m.read.getLsbD 38 = m.gva ∧ m.read.extractLsb' 36 2 = 0#2 ∧
    m.read.extractLsb' 34 2 = 1#2 ∧ m.read.extractLsb' 32 2 = 1#2 ∧ m.read.extractLsb' 23 9 = 0#9 ∧
    m.read.getLsbD 22 = m.tsr ∧ m.read.getLsbD 21 = m.tw ∧ m.read.getLsbD 20 = m.tvm ∧
    m.read.getLsbD 19 = m.mxr ∧ m.read.getLsbD 18 = m.sum ∧ m.read.getLsbD 17 = m.mprv ∧
    m.read.extractLsb' 15 2 = 0#2 ∧ m.read.extractLsb' 13 2 = m.fs ∧ m.read.extractLsb' 11 2 = m.mpp.code ∧
    m.read.extractLsb' 11 2 ≠ 2#2 ∧ m.read.extractLsb' 9 2 = m.vs ∧
    m.read.getLsbD 8 = m.spp ∧ m.read.getLsbD 7 = m.mpie ∧ m.read.getLsbD 6 = false ∧ m.read.getLsbD 5 = m.spie ∧
    m.read.getLsbD 4 = false ∧ m.read.getLsbD 3 = m.mie ∧ m.read.getLsbD 2 = false ∧ m.read.getLsbD 1 = m.sie ∧
    m.read.getLsbD 0 = false

/-- The twelve plain fields and SPP take their own bits of the value written (40_csr_access.md R125, R129); `priv` is not
affected, and a write of MIE or SIE is in the interrupt enables after it. SPP is one bit, so the first branch of its printed
function cannot fire. That HS-mode interrupts are enabled in U-mode and with `V` = 1 whatever SIE is the spec's decision D34
from general knowledge (60_exceptions.md R191; log 30). -/
def Obligations.WriteStoresPlainFields : Prop :=
  ∀ (s : State) (w : Word), let m := s.writeMstatus w
    m.mpv = w.getLsbD 39 ∧ m.gva = w.getLsbD 38 ∧ m.tsr = w.getLsbD 22 ∧ m.tw = w.getLsbD 21 ∧
    m.tvm = w.getLsbD 20 ∧ m.mxr = w.getLsbD 19 ∧ m.sum = w.getLsbD 18 ∧ m.mprv = w.getLsbD 17 ∧
    m.mpie = w.getLsbD 7 ∧ m.spie = w.getLsbD 5 ∧ m.mie = w.getLsbD 3 ∧ m.sie = w.getLsbD 1 ∧ m.spp = w.getLsbD 8 ∧
    (∀ rd rs1, s.priv = .M → ∃ t, exec (.csrrw mstatusAddr rd rs1) s = .next t ∧
      t.mstatus = s.writeMstatus (s.readX rs1) ∧ t.priv = s.priv ∧
      t.mIntGloballyEnabled = (s.readX rs1).getLsbD 3 ∧
      (∀ v p, p ≠ .M → ({ t with priv := p, v := v } : State).sIntGloballyEnabled =
        (p == .U || v || (s.readX rs1).getLsbD 1)))

/-- FS and VS take their own bits where those are legal, and `UL_FS`, `UL_VS` where they are not; the result is legal, and
SD follows at once (40_csr_access.md R126, R128). That the result is legal where `UL_FS` or `UL_VS` is stored is 00_scope.md
R18, the spec's decision D2, kept by the model's choice of log 11; that VS reads its own bits is the spec's reading of the
page (90_conflicts.md C6; log 24). -/
def Obligations.WriteOfFsAndVs : Prop :=
  ∀ (s : State) (w : Word), let m := s.writeMstatus w
    (legalHas s.cfg.fsLegal (w.extractLsb' 13 2) = true → m.fs = w.extractLsb' 13 2) ∧
    (legalHas s.cfg.fsLegal (w.extractLsb' 13 2) = false → m.fs = s.ulFs w) ∧
    legalHas s.cfg.fsLegal m.fs = true ∧
    (legalHas s.cfg.vsLegal (w.extractLsb' 9 2) = true → m.vs = w.extractLsb' 9 2) ∧
    (legalHas s.cfg.vsLegal (w.extractLsb' 9 2) = false → m.vs = s.ulVs w) ∧
    legalHas s.cfg.vsLegal m.vs = true ∧
    m.read.getLsbD 63 = (m.fs == 3#2 || m.vs == 3#2)

/-- MPP takes 0, 1 and 3 as written, and `UL_MPP` where 2 is written; a write of MPP leaves `priv` (40_csr_access.md
R127). -/
def Obligations.WriteOfMpp : Prop :=
  ∀ (s : State) (w : Word), let m := s.writeMstatus w
    (w.extractLsb' 11 2 = 0#2 → m.mpp = .U) ∧ (w.extractLsb' 11 2 = 1#2 → m.mpp = .S) ∧
    (w.extractLsb' 11 2 = 3#2 → m.mpp = .M) ∧ (w.extractLsb' 11 2 = 2#2 → m.mpp = s.ulMpp w) ∧
    (∀ rd rs1, s.priv = .M → ∃ t, exec (.csrrw mstatusAddr rd rs1) s = .next t ∧
      t.mstatus.mpp = s.wfMpp (s.readX rs1) ∧ t.priv = s.priv)

/-- Writes to SD, to the constant fields and to the reserved bits are ignored, in all six CSR instructions: the
instruction completes, takes no trap, and the bits read as before; SD reads what FS and VS make it (40_csr_access.md
R124). -/
def Obligations.IgnoredBitsKeepReading : Prop :=
  ∀ (i : Instr) (s : State), i.csr? = some mstatusAddr → s.priv = .M →
    ∃ t, exec i s = .next t ∧ t.lastTrap = s.lastTrap ∧ t.pc = s.pc + 4#64 ∧
      (∀ n, (n = 0 ∨ n = 2 ∨ n = 4 ∨ n = 6 ∨ n = 15 ∨ n = 16 ∨ (23 ≤ n ∧ n ≤ 37) ∨ (40 ≤ n ∧ n ≤ 62)) →
        t.mstatus.read.getLsbD n = s.mstatus.read.getLsbD n) ∧
      t.mstatus.read.getLsbD 63 = (t.mstatus.fs == 3#2 || t.mstatus.vs == 3#2)

/-- The closed form of a write, for the parameters {0,1,2,3} (40_csr_access.md section 2: R137, marked [derived]): the
stored bits are the written ones under the writable mask, but for MPP where 2 was written. -/
def Obligations.ClosedFormOfWrite : Prop :=
  ∀ (s : State) (w : Word), s.cfg.fsLegal = ⟨true, true, true⟩ → s.cfg.vsLegal = ⟨true, true, true⟩ →
    let r := (s.writeMstatus w).read
    r &&& 0x7FFFFF3FFF818055#64 = 0x500000000#64 ∧
    r.getLsbD 63 = (w.extractLsb' 13 2 == 3#2 || w.extractLsb' 9 2 == 3#2) ∧
    (w.extractLsb' 11 2 ≠ 2#2 → r &&& 0xC0007E7FAA#64 = w &&& 0xC0007E7FAA#64) ∧
    (w.extractLsb' 11 2 = 2#2 →
      r &&& 0xC0007E67AA#64 = w &&& 0xC0007E67AA#64 ∧ r.extractLsb' 11 2 = (s.ulMpp w).code)

/-- Writing back what was read changes nothing, where FS and VS are legal (40_csr_access.md section 2: R138, marked
[derived]; FS and VS are legal in every reachable state, statement StepKeepsTheInvariant). -/
def Obligations.WriteBackChangesNothing : Prop :=
  ∀ s : State, legalHas s.cfg.fsLegal s.mstatus.fs = true → legalHas s.cfg.vsLegal s.mstatus.vs = true →
    s.writeMstatus s.mstatus.read = s.mstatus

/-! The six CSR instructions. -/

/-- `csrrw` (40_csr_access.md R130): in M-mode it writes `x[rs1]`, always, 0 where `rs1` is `x0`, and `rd` takes the old
value; below M-mode it raises Illegal Instruction. The rule is general knowledge in the spec. -/
def Obligations.CsrrwWritesAndSwaps : Prop :=
  ∀ (s : State) (rd rs1 : Reg),
    s.readX 0#5 = 0#64 ∧
    (s.priv = .M → ∃ t, exec (.csrrw mstatusAddr rd rs1) s = .next t ∧
      CsrCompleted s t rd (s.writeMstatus (s.readX rs1))) ∧
    (s.priv ≠ .M → ∃ t, exec (.csrrw mstatusAddr rd rs1) s = .next t ∧ IllegalTaken s t)

/-- `csrrs` (R131): no write when `rs1` is `x0`; else the old value with the bits of `x[rs1]` set. -/
def Obligations.CsrrsSetsBits : Prop :=
  ∀ (s : State) (rd rs1 : Reg),
    (s.priv = .M → ∃ t, exec (.csrrs mstatusAddr rd rs1) s = .next t ∧
      CsrCompleted s t rd (if rs1 = 0#5 then s.mstatus else s.writeMstatus (s.mstatus.read ||| s.readX rs1))) ∧
    (s.priv ≠ .M → ∃ t, exec (.csrrs mstatusAddr rd rs1) s = .next t ∧ IllegalTaken s t)

/-- `csrrc` (R132): no write when `rs1` is `x0`; else the old value with the bits of `x[rs1]` cleared. -/
def Obligations.CsrrcClearsBits : Prop :=
  ∀ (s : State) (rd rs1 : Reg),
    (s.priv = .M → ∃ t, exec (.csrrc mstatusAddr rd rs1) s = .next t ∧
      CsrCompleted s t rd (if rs1 = 0#5 then s.mstatus else s.writeMstatus (s.mstatus.read &&& ~~~(s.readX rs1)))) ∧
    (s.priv ≠ .M → ∃ t, exec (.csrrc mstatusAddr rd rs1) s = .next t ∧ IllegalTaken s t)

/-- `csrrwi` (40_csr_access.md section 3, R133): the write of `zext_64(uimm)`, always; every plain field above bit 4 becomes
0, MPP becomes U, MIE and SIE are `uimm[3]` and `uimm[1]`. FS and VS become 0 where 0 is legal for them, as R126 and R128
say; R133 says so for legal sets that hold 0. -/
def Obligations.CsrrwiWritesImmediate : Prop :=
  ∀ (s : State) (rd : Reg) (uimm : BitVec 5),
    (s.priv = .M → ∃ t, exec (.csrrwi mstatusAddr rd uimm) s = .next t ∧
      CsrCompleted s t rd (s.writeMstatus (uimm.setWidth 64)) ∧
      t.mstatus.mie = uimm.getLsbD 3 ∧ t.mstatus.sie = uimm.getLsbD 1 ∧
      t.mstatus.mpv = false ∧ t.mstatus.gva = false ∧ t.mstatus.tsr = false ∧ t.mstatus.tw = false ∧
      t.mstatus.tvm = false ∧ t.mstatus.mxr = false ∧ t.mstatus.sum = false ∧ t.mstatus.mprv = false ∧
      t.mstatus.mpp = .U ∧ t.mstatus.spp = false ∧ t.mstatus.mpie = false ∧ t.mstatus.spie = false ∧
      (s.cfg.fsLegal.has0 = true → t.mstatus.fs = 0#2) ∧ (s.cfg.vsLegal.has0 = true → t.mstatus.vs = 0#2)) ∧
    (s.priv ≠ .M → ∃ t, exec (.csrrwi mstatusAddr rd uimm) s = .next t ∧ IllegalTaken s t)

/-- `csrrsi` (R134): in a state whose FS and VS are legal, only MIE and SIE can be set, by `uimm[3]` and `uimm[1]`; no
write when `uimm` is 0. -/
def Obligations.CsrrsiSetsEnables : Prop :=
  ∀ (s : State) (rd : Reg) (uimm : BitVec 5),
    (s.priv = .M → ∃ t, exec (.csrrsi mstatusAddr rd uimm) s = .next t ∧
      CsrCompleted s t rd (if uimm = 0#5 then s.mstatus else s.writeMstatus (s.mstatus.read ||| uimm.setWidth 64)) ∧
      (legalHas s.cfg.fsLegal s.mstatus.fs = true → legalHas s.cfg.vsLegal s.mstatus.vs = true →
        t.mstatus = { s.mstatus with
          mie := s.mstatus.mie || uimm.getLsbD 3, sie := s.mstatus.sie || uimm.getLsbD 1 })) ∧
    (s.priv ≠ .M → ∃ t, exec (.csrrsi mstatusAddr rd uimm) s = .next t ∧ IllegalTaken s t)

/-- `csrrci` (R135): as `csrrsi`, clearing. -/
def Obligations.CsrrciClearsEnables : Prop :=
  ∀ (s : State) (rd : Reg) (uimm : BitVec 5),
    (s.priv = .M → ∃ t, exec (.csrrci mstatusAddr rd uimm) s = .next t ∧
      CsrCompleted s t rd (if uimm = 0#5 then s.mstatus else s.writeMstatus (s.mstatus.read &&& ~~~(uimm.setWidth 64))) ∧
      (legalHas s.cfg.fsLegal s.mstatus.fs = true → legalHas s.cfg.vsLegal s.mstatus.vs = true →
        t.mstatus = { s.mstatus with
          mie := s.mstatus.mie && !uimm.getLsbD 3, sie := s.mstatus.sie && !uimm.getLsbD 1 })) ∧
    (s.priv ≠ .M → ∃ t, exec (.csrrci mstatusAddr rd uimm) s = .next t ∧ IllegalTaken s t)

/-- "A CSR instruction with another `csr` value is refused by the model (out of scope), not trapped" (30_encoding.md
section 1, R101), in every mode. -/
def Obligations.OtherCsrRefused : Prop :=
  ∀ (i : Instr) (s : State) (csr : CsrAddr), i.csr? = some csr → csr ≠ 0x300#12 →
    exec i s = .refused (.csrOutOfScope csr)

/-! Trap return. -/

/-- `mret` in M-mode (41_trap_return.md section 1, R150 with R155 and R157). What it leaves in MPV is the spec's decision
D12, its other reading the parameter MRET_MPV (log 10); the target is the input `ret_target`. -/
def Obligations.MretReturns : Prop :=
  ∀ s : State, s.priv = .M → ∃ t, exec .mret s = .next t ∧
    t.mstatus = { s.mstatus with
      mie := s.mstatus.mpie, mpie := true, mpp := .U, mprv := false
      mpv := if s.cfg.mretMpv = .zero then false else s.mstatus.mpv } ∧
    t.priv = s.mstatus.mpp ∧ (s.mstatus.mpp = .M → t.v = false) ∧ (s.mstatus.mpp ≠ .M → t.v = s.mstatus.mpv) ∧
    t.pc = s.input.retTarget ∧ t.wfiWaited = s.wfiWaited ∧ t.lastTrap = s.lastTrap ∧
    SameRegisters s t ∧ SameSurroundings s t

/-- `mret` below M-mode, with `V` = 0 or 1, raises Illegal Instruction (41_trap_return.md section 1, R151: the spec's
decision D15). -/
def Obligations.MretBelowMachineModeTraps : Prop :=
  ∀ s : State, s.priv ≠ .M → ∃ t, exec .mret s = .next t ∧ IllegalTaken s t

/-- `sret` in M-mode, whatever TSR, and in HS-mode with TSR = 0 (41_trap_return.md section 2, R152 with R155). The new `V`
is the input `sret_new_V` (the spec's decision D13). -/
def Obligations.SretReturns : Prop :=
  ∀ s : State, (s.priv = .M ∨ (s.priv = .S ∧ s.v = false ∧ s.mstatus.tsr = false)) →
    ∃ t, exec .sret s = .next t ∧
      t.mstatus = { s.mstatus with sie := s.mstatus.spie, spie := true, spp := false, mprv := false } ∧
      (s.mstatus.spp = true → t.priv = .S) ∧ (s.mstatus.spp = false → t.priv = .U) ∧
      t.v = s.input.sretNewV ∧ t.pc = s.input.retTarget ∧ t.wfiWaited = s.wfiWaited ∧ t.lastTrap = s.lastTrap ∧
      SameRegisters s t ∧ SameSurroundings s t

/-- `sret` raises Illegal Instruction in HS-mode with TSR = 1 and in U-mode (41_trap_return.md section 2, R153; U-mode is
the spec's decision D15). -/
def Obligations.SretTraps : Prop :=
  ∀ s : State, ((s.priv = .S ∧ s.v = false ∧ s.mstatus.tsr = true) ∨ (s.priv = .U ∧ s.v = false)) →
    ∃ t, exec .sret s = .next t ∧ IllegalTaken s t

/-- `sret` with `V` = 1 below M-mode: "The model refuses" (41_trap_return.md section 2, R154). -/
def Obligations.SretInGuestRefused : Prop :=
  ∀ s : State, s.priv ≠ .M → s.v = true → exec .sret s = .refused .sretVirtual

/-- "Every completed `mret` and every completed `sret` sets `mstatus.MPRV <- 0`", whatever mode it returns to; one that
raises leaves MPRV (41_trap_return.md R155). -/
def Obligations.ReturnsClearMprv : Prop :=
  ∀ s : State,
    (s.priv = .M → ∃ t, exec .mret s = .next t ∧ t.mstatus.mprv = false) ∧
    (s.priv = .M ∨ (s.priv = .S ∧ s.v = false ∧ s.mstatus.tsr = false) →
      ∃ t, exec .sret s = .next t ∧ t.mstatus.mprv = false) ∧
    (s.priv ≠ .M → ∃ t, exec .mret s = .next t ∧ t.mstatus.mprv = s.mstatus.mprv) ∧
    ((s.priv = .S ∧ s.v = false ∧ s.mstatus.tsr = true) ∨ (s.priv = .U ∧ s.v = false) →
      ∃ t, exec .sret s = .next t ∧ t.mstatus.mprv = s.mstatus.mprv)

/-! wfi. -/

/-- `wfi` completes and only advances `pc`: in M-mode and in HS-mode with TW = 0 when the wait is over, and in the modes
where it must trap after the wait period when the period has not elapsed (42_wfi_and_gated_instructions.md section 1, R165
and R166; that both outcomes are open is the spec's decision D16). -/
def Obligations.WfiCompletes : Prop :=
  ∀ s : State,
    (s.input.wfiWaits = false ∧ (s.priv = .M ∨ (s.priv = .S ∧ s.v = false ∧ s.mstatus.tw = false))) ∨
    (s.input.wfiTimedOut = false ∧
      ((s.priv = .S ∧ s.v = false ∧ s.mstatus.tw = true) ∨ (s.priv = .U ∧ s.v = false) ∨
        (s.priv ≠ .M ∧ s.v = true ∧ s.mstatus.tw = true))) →
    ∃ t, exec .wfi s = .next t ∧ t.pc = s.pc + 4#64 ∧ t.wfiWaited = 0 ∧
      t.mstatus = s.mstatus ∧ t.priv = s.priv ∧ t.v = s.v ∧ t.lastTrap = s.lastTrap ∧
      SameRegisters s t ∧ SameSurroundings s t

/-- `wfi` raises Illegal Instruction when the wait period elapses: below M-mode with TW = 1, and in U-mode with TW = 0
(R166). -/
def Obligations.WfiTrapsAfterPeriod : Prop :=
  ∀ s : State, s.input.wfiTimedOut = true →
    ((s.priv ≠ .M ∧ s.mstatus.tw = true) ∨ (s.priv = .U ∧ s.v = false)) →
    ∃ t, exec .wfi s = .next t ∧ IllegalTaken s t

/-- `wfi` may go on waiting in M-mode and in HS-mode with TW = 0: the hart stays at it and nothing but the progress of the
wait changes (R165: "the model must keep that as a possible behaviour"; log 14). -/
def Obligations.WfiMayKeepWaiting : Prop :=
  ∀ s : State, s.input.wfiWaits = true →
    (s.priv = .M ∨ (s.priv = .S ∧ s.v = false ∧ s.mstatus.tw = false)) →
    ∃ t, exec .wfi s = .next t ∧ t.pc = s.pc ∧ t.wfiWaited = s.wfiWaited + 1 ∧
      t.mstatus = s.mstatus ∧ t.priv = s.priv ∧ t.v = s.v ∧ t.lastTrap = s.lastTrap ∧
      SameRegisters s t ∧ SameSurroundings s t

/-- `wfi` with `V` = 1 and TW = 0: "the model refuses" (R166). -/
def Obligations.WfiInGuestRefused : Prop :=
  ∀ s : State, s.priv ≠ .M → s.v = true → s.mstatus.tw = false → exec .wfi s = .refused .wfiVirtual

/-! Trap entry. -/

/-- A trap entry into M-mode, for an exception the host core raises and for an interrupt (60_exceptions.md section 4, R196):
MPV, GVA, MPP, MPIE and MIE are written, every other field, the registers and memory are kept. GVA is the input held to the
constraint of R197 (log 13; statement GvaNeedsGuestAddress). That the interrupt is taken whatever event is reported, but a
reset, is the spec's decision D28 and log 18; that it is enabled in every mode below M-mode is decision D34, log 30. -/
def Obligations.TrapEntryIntoMachineMode : Prop :=
  ∀ (s : State) (c : Cause),
    ((∃ e a, s.input.event = some (.exception e a) ∧ c = .exception e a) ∧
      s.interruptEntry = none ∧ s.input.trapMode = .M) ∨
    (¬ s.resets ∧ s.input.mIntReady = true ∧ s.mIntGloballyEnabled = true ∧ c = .interrupt) →
    ∃ t : State, step s = .next t.nextInput ∧
      t.mstatus = { s.mstatus with
        mpv := s.v, gva := s.gvaWritten c, mpp := s.priv, mpie := s.mstatus.mie, mie := false } ∧
      t.priv = .M ∧ t.v = false ∧ t.pc = s.input.trapTarget ∧ SameRegisters s t ∧ SameSurroundings s t

/-- A trap entry into HS-mode, from below M-mode, for an exception the host core raises and for an interrupt
(60_exceptions.md section 4, R198). That the interrupt is taken whatever event is reported, but a reset, where no M-mode
interrupt is ready, is the spec's decision D28 and log 18; that it is enabled in U-mode and with `V` = 1 whatever SIE is
decision D34, log 30. -/
def Obligations.TrapEntryIntoSupervisorMode : Prop :=
  ∀ s : State,
    ((∃ e a, s.input.event = some (.exception e a)) ∧ s.interruptEntry = none ∧ s.input.trapMode = .HS ∧ s.priv ≠ .M) ∨
    (¬ s.resets ∧ s.input.mIntReady = false ∧ s.input.sIntReady = true ∧ s.sIntGloballyEnabled = true) →
    ∃ t : State, step s = .next t.nextInput ∧
      t.mstatus = { s.mstatus with spp := decide (s.priv = .S), spie := s.mstatus.sie, sie := false } ∧
      t.priv = .S ∧ t.v = false ∧ t.pc = s.input.trapTarget ∧ SameRegisters s t ∧ SameSurroundings s t

/-- A trap entry into VS-mode, for an exception the host core raises and for an interrupt, writes no field of `mstatus`
(60_exceptions.md section 4, R199: marked [derived], the spec's decision D33). That a VS interrupt is taken where the host
core reports it is log 28. -/
def Obligations.TrapEntryIntoGuestKeepsMstatus : Prop :=
  ∀ s : State,
    ((∃ e a, s.input.event = some (.exception e a)) ∧ s.input.trapMode = .VS) ∨ s.input.event = some .vsInterrupt →
    s.interruptEntry = none → s.priv ≠ .M → s.v = true →
    ∃ t : State, step s = .next t.nextInput ∧ t.mstatus = s.mstatus ∧
      t.priv = .S ∧ t.v = true ∧ t.pc = s.input.trapTarget ∧ SameRegisters s t ∧ SameSurroundings s t

/-- A trap never lowers privilege, whatever raised it and whatever target the inputs name (60_exceptions.md section 4, R194:
general knowledge; that a target R194 forbids becomes M-mode is the model's choice, log 12): the entry into an allowed mode
does not; and every step that lowers it is an `mret` or an `sret` that completes, so that none of exceptions, interrupts,
host-core instructions and resets does. -/
def Obligations.TrapNeverLowersPrivilege : Prop :=
  (∀ (s t : State) (m : TrapMode) (c : Cause), s.trapModeAllowed m = true → TrapTaken s t m c →
    s.priv.code.toNat ≤ t.priv.code.toNat) ∧
  (∀ s t : State, step s = .next t → t.priv.code.toNat < s.priv.code.toNat →
    s.hostMove = none ∧ t.pc = s.input.retTarget ∧
    ((s.fetch = .next .mret ∧ s.priv = .M) ∨
      (s.fetch = .next .sret ∧ (s.priv = .M ∨ (s.priv = .S ∧ s.v = false ∧ s.mstatus.tsr = false)))))

/-- GVA is 1 after a trap into M-mode exactly when the input says so and the hart ran with `V` = 1, or a load or a store
that was made so through MPRV, MPV and MPP raised the trap (60_exceptions.md section 4, R197: general knowledge; log 13). An
interrupt, a fetch and a gate make no such access; a page fault of a load or a store was raised by one. -/
def Obligations.GvaNeedsGuestAddress : Prop :=
  ∀ (s : State) (c : Cause),
    ((s.enterM c).mstatus.gva = true ↔
      s.input.gvaWritten = true ∧
        (s.v = true ∨
          (c.madeAccess = true ∧ s.mstatus.mprv = true ∧ s.mstatus.mpv = true ∧ s.mstatus.mpp ≠ .M))) ∧
    (c.madeAccess = true ↔
      (∃ a, c = .exception (some (.pageFault .load)) a) ∨ (∃ a, c = .exception (some (.pageFault .store)) a) ∨
      c = .exception (some .illegalInstruction) true ∨ c = .exception none true)

/-- The fields no trap entry writes (60_exceptions.md section 4, R200: marked [derived]); and after a trap from M-mode into
M-mode loads and stores are made as M-mode whatever MPRV. -/
def Obligations.TrapEntryLeavesControls : Prop :=
  ∀ (s : State) (m : TrapMode) (c : Cause), let t := s.enter m c
    t.mstatus.tsr = s.mstatus.tsr ∧ t.mstatus.tw = s.mstatus.tw ∧ t.mstatus.tvm = s.mstatus.tvm ∧
    t.mstatus.mxr = s.mstatus.mxr ∧ t.mstatus.sum = s.mstatus.sum ∧ t.mstatus.mprv = s.mstatus.mprv ∧
    t.mstatus.fs = s.mstatus.fs ∧ t.mstatus.vs = s.mstatus.vs ∧
    (m = .M → s.priv = .M → t.effLdSt = ⟨false, .M⟩)

/-- A second trap into M-mode straight after a first overwrites the record: MPP = 3, MPV = 0, MPIE = the handler's MIE,
which the first entry made 0 (60_exceptions.md section 6, R202: marked [derived]). -/
def Obligations.SecondTrapOverwritesRecord : Prop :=
  ∀ (s : State) (c d : Cause), let t := (s.enterM c).enterM d
    t.mstatus.mpp = .M ∧ t.mstatus.mpv = false ∧ t.mstatus.mpie = false ∧ t.mstatus.mie = false ∧ t.priv = .M

/-- `mret` straight after a trap into M-mode gives back the interrupted mode and MIE (60_exceptions.md section 6, R202). -/
def Obligations.MretUndoesTrapEntry : Prop :=
  ∀ (s : State) (c : Cause), s.Inv → ∃ t, exec .mret (s.enterM c) = .next t ∧
    t.priv = s.priv ∧ t.v = s.v ∧ t.mstatus.mie = s.mstatus.mie ∧ t.mstatus.mpie = true ∧ t.mstatus.mpp = .U ∧
    SameRegisters s t ∧ SameSurroundings s t

/-- `sret` straight after a trap into HS-mode, with TSR = 0, gives back the interrupted privilege level and SIE; `V` is the
input (60_exceptions.md section 6, R202). -/
def Obligations.SretUndoesTrapEntry : Prop :=
  ∀ (s : State) (c : Cause), s.priv ≠ .M → s.mstatus.tsr = false → ∃ t, exec .sret (s.enterHS c) = .next t ∧
    t.priv = s.priv ∧ t.v = s.input.sretNewV ∧ t.mstatus.sie = s.mstatus.sie ∧ t.mstatus.spie = true ∧
    t.mstatus.spp = false ∧ SameRegisters s t ∧ SameSurroundings s t

/-! Interrupts. -/

/-- When the global enables let an interrupt be taken (60_exceptions.md section 3, R190 and R191; the modes the page does
not name are the spec's decision D34), and with MIE = 0 in M-mode none is, however many are ready. -/
def Obligations.GlobalInterruptEnables : Prop :=
  ∀ s : State,
    (s.mIntGloballyEnabled = true ↔ s.priv ≠ .M ∨ s.mstatus.mie = true) ∧
    (s.sIntGloballyEnabled = true ↔
      s.priv ≠ .M ∧ (s.priv = .U ∨ s.v = true ∨ s.mstatus.sie = true)) ∧
    (s.priv = .M → s.mstatus.mie = false → s.interruptEntry = none)

/-- An M-mode interrupt that is ready and enabled is taken before anything else but a reset, and before an HS-mode
interrupt (60_exceptions.md sections 3 and 5, R192 and R201: the spec's decision D28; log 18). -/
def Obligations.MachineInterruptTakenFirst : Prop :=
  ∀ s : State, ¬ s.resets → s.input.mIntReady = true → (s.priv ≠ .M ∨ s.mstatus.mie = true) →
    ∃ t : State, step s = .next t.nextInput ∧ TrapTaken s t .M .interrupt

/-- An HS-mode interrupt that is ready and enabled is taken when no M-mode interrupt is ready. -/
def Obligations.SupervisorInterruptTaken : Prop :=
  ∀ s : State, ¬ s.resets → s.input.mIntReady = false → s.input.sIntReady = true → s.priv ≠ .M →
    (s.priv = .U ∨ s.v = true ∨ s.mstatus.sie = true) →
    ∃ t : State, step s = .next t.nextInput ∧ TrapTaken s t .HS .interrupt

/-! Gates and protection. -/

/-- A floating-point instruction with FS = 0 and a vector instruction with VS = 0 raise Illegal Instruction, in every mode
(42_wfi_and_gated_instructions.md R169, R170). -/
def Obligations.UnitOffTraps : Prop :=
  ∀ (s : State) (h : HostInstr), s.input.event = some (.hostInstr h) → s.interruptEntry = none →
    ((h.fp ≠ .notUsed ∧ s.mstatus.fs = 0#2) ∨ (h.vec ≠ .notUsed ∧ s.mstatus.vs = 0#2)) →
    ∃ t : State, step s = .next t.nextInput ∧ IllegalTaken s t

/-- An instruction that completes (no gate and no page check raises) and wrote floating-point state leaves FS = 3, one that
wrote vector state VS = 3; SD then reads 1; all in the step of the instruction and in every mode
(42_wfi_and_gated_instructions.md section 3, R171, R172). One that wrote neither leaves both. That none that wrote one
completes while its status is 0 is marked [derived] in R171, and holds here by the model's choice that an instruction which
reports a write counts as one of the unit (log 17). -/
def Obligations.UnitWriteDirties : Prop :=
  ∀ (s : State) (h : HostInstr), s.input.event = some (.hostInstr h) → s.interruptEntry = none →
    s.hostFault h = none →
    ∃ t : State, step s = .next t.nextInput ∧ HostCompleted s t h ∧
      (h.fp = .written ∨ h.vec = .written → t.mstatus.read.getLsbD 63 = true) ∧
      (h.fp = .written → s.mstatus.fs ≠ 0#2) ∧ (h.vec = .written → s.mstatus.vs ≠ 0#2)

/-- With TVM = 1 an operation of `TVM_TRAPPED_OPS` in a mode of `TVM_MODES` raises Illegal Instruction; with TVM = 0, in
another mode, and for another operation the rule raises nothing, and an instruction that nothing else refuses completes
(42_wfi_and_gated_instructions.md section 2, R168; both sets are parameters). -/
def Obligations.TvmTrapsItsOperations : Prop :=
  ∀ (s : State) (h : HostInstr) (op : VmOp), s.input.event = some (.hostInstr h) → s.interruptEntry = none →
    h.vmOp = some op →
    (s.mstatus.tvm = true → s.mode ∈ s.cfg.tvmModes → op ∈ s.cfg.tvmTrappedOps →
      ∃ t : State, step s = .next t.nextInput ∧ IllegalTaken s t) ∧
    ((s.mstatus.tvm = false ∨ s.mode ∉ s.cfg.tvmModes ∨ op ∉ s.cfg.tvmTrappedOps) →
      (h.fp ≠ .notUsed → s.mstatus.fs ≠ 0#2) → (h.vec ≠ .notUsed → s.mstatus.vs ≠ 0#2) →
      (∀ p, h.load = some p → s.loadFault p = none) →
      ∃ t : State, step s = .next t.nextInput ∧ HostCompleted s t h)

/-- The page checks of a load that no gate refuses (UnitOffTraps, TvmTrapsItsOperations), whatever unit it uses: a page not
readable, even with MXR, is a Page Fault; a user page under a SUM violation is the class `SUM_FAULT_KIND`; else the load
completes (20_memory.md section 4, R87 to R89). The order of the two checks is an input (log 17); for a load that reports no
page neither is made (log 34). -/
def Obligations.LoadPageChecks : Prop :=
  ∀ (s : State) (h : HostInstr) (p : PageLoad), s.input.event = some (.hostInstr h) → s.interruptEntry = none →
    s.gateRefuses h = false → h.load = some p →
    (p.r = false → (s.mstatus.mxr = false ∨ p.x = false) → (s.sumViolation p.u = false ∨ p.sumFirst = false) →
      ∃ t : State, step s = .next t.nextInput ∧ ExceptionTaken s t (.pageFault .load) true) ∧
    (s.sumViolation p.u = true → (p.r = true ∨ (s.mstatus.mxr = true ∧ p.x = true) ∨ p.sumFirst = true) →
      ∃ t : State, step s = .next t.nextInput ∧
        (s.cfg.sumFaultKind = .illegalInstruction → ExceptionTaken s t .illegalInstruction true) ∧
        (s.cfg.sumFaultKind = .pageFault → ExceptionTaken s t (.pageFault .load) true)) ∧
    (s.sumViolation p.u = false → (p.r = true ∨ (s.mstatus.mxr = true ∧ p.x = true)) →
      ∃ t : State, step s = .next t.nextInput ∧ HostCompleted s t h)

/-- `SumViolation(U)` (20_memory.md section 4, R88, with S-mode read as HS-mode as the rule says; log 27). -/
def Obligations.SumViolationCondition : Prop :=
  ∀ (s : State) (u : Bool), s.sumViolation u = true ↔
    s.mstatus.sum = false ∧ u = true ∧
      ((s.priv = .S ∧ s.v = false) ∨ (s.priv = .M ∧ s.mstatus.mprv = true ∧ s.mstatus.mpp = .S))

/-- `EffLdSt()` (20_memory.md section 3, R84; its middle branch is marked [derived]); below M-mode, in a state of the
invariant, it is the mode the hart is in; fetch is always made as that mode (R85, the spec's decision D36). -/
def Obligations.EffectiveModeOfLoads : Prop :=
  ∀ s : State,
    (s.mstatus.mprv = false → s.effLdSt = ⟨s.v, s.priv⟩) ∧
    (s.mstatus.mprv = true → s.mstatus.mpp = .M → s.effLdSt = ⟨false, .M⟩) ∧
    (s.mstatus.mprv = true → s.mstatus.mpp ≠ .M → s.effLdSt = ⟨s.mstatus.mpv, s.mstatus.mpp⟩) ∧
    (s.Inv → s.priv ≠ .M → s.effLdSt = ⟨s.v, s.priv⟩) ∧
    s.fetchMode = ⟨s.v, s.priv⟩

/-- Byte order and register width: little-endian and 64 bits in M, S and U; not given with `V` = 1 (20_memory.md sections 2
and 3, R81 and R86: the spec's decisions D5, D6). -/
def Obligations.ByteOrderAndWidthFixed : Prop :=
  ∀ m : Mode,
    (m.v = false → m.dataByteOrder = some .little ∧ m.xlen = some 64) ∧
    (m.v = true → m.dataByteOrder = none ∧ m.xlen = none)

/-! The whole machine. -/

/-- The invariant (10_state.md sections 3 and 4, R49 and R61; 41_trap_return.md section 3, R156: marked [derived] in the
spec) is kept by every step: MPRV only in M-mode, `V` = 0 in M-mode, FS and VS legal, memory canonical. -/
def Obligations.StepKeepsTheInvariant : Prop :=
  ∀ s t : State, s.Inv → step s = .next t → t.Inv

/-- The state after reset meets the invariant; its values are named in logs 1 to 10. -/
def Obligations.ResetMeetsTheInvariant : Prop := State.reset.Inv

/-- Privilege M is entered, from below it, only by a reset or by a trap entry into M-mode, which records the interrupted
mode and MIE and goes to the trap target (10_state.md section 4, R60; 60_exceptions.md section 1, R186). -/
def Obligations.MachineModeEnteredOnlyByTrapOrReset : Prop :=
  ∀ s t : State, step s = .next t → s.priv ≠ .M → t.priv = .M →
    s.resets ∨
    (t.mstatus.mpp = s.priv ∧ t.mstatus.mpv = s.v ∧ t.mstatus.mpie = s.mstatus.mie ∧ t.mstatus.mie = false ∧
      t.v = false ∧ t.pc = s.input.trapTarget)

/-- Below M-mode nothing but a reset changes what M-mode's control fields say: TSR, TW, TVM, MXR and SUM are held, and MPRV
is not set (40_csr_access.md section 1, R121; 41_trap_return.md section 3; 60_exceptions.md section 4, R200). On a full hart a restricted view of the
register, out of scope, could (91_not_in_source.md N14). -/
def Obligations.ControlsHeldBelowMachineMode : Prop :=
  ∀ s t : State, step s = .next t → s.priv ≠ .M → ¬ s.resets →
    t.mstatus.tsr = s.mstatus.tsr ∧ t.mstatus.tw = s.mstatus.tw ∧ t.mstatus.tvm = s.mstatus.tvm ∧
    t.mstatus.mxr = s.mstatus.mxr ∧ t.mstatus.sum = s.mstatus.sum ∧
    (t.mstatus.mprv = true → s.mstatus.mprv = true)

/-- Below M-mode, but for a reset, FS and VS change only to 3, and never from 0 (42_wfi_and_gated_instructions.md section 3,
R171 to R173). -/
def Obligations.StatusOnlyRisesToDirty : Prop :=
  ∀ s t : State, step s = .next t → s.priv ≠ .M → ¬ s.resets →
    (t.mstatus.fs = s.mstatus.fs ∨ (s.mstatus.fs ≠ 0#2 ∧ t.mstatus.fs = 3#2)) ∧
    (t.mstatus.vs = s.mstatus.vs ∨ (s.mstatus.vs ≠ 0#2 ∧ t.mstatus.vs = 3#2))

/-- No step changes the parameters, and every step uses up one entry of the schedule and one index of the free values
(00_scope.md section 4; logs 6 and 7). -/
def Obligations.ParametersNeverChange : Prop :=
  ∀ s t : State, step s = .next t →
    t.cfg = s.cfg ∧ t.schedule = s.schedule.tail ∧ t.draws = s.draws + 1

/-! Reset. -/

/-- A reset event gives a state of 70_reset_and_hazards.md R221, whatever the state was: GVA, MPRV and MIE are 0, the drawn
fields are what was drawn (FS and VS where that is legal), and the word read meets the mask equations of 10_state.md R69; and every
register value R221 allows is drawn by some reset. That the mode
is M with `V` = 0 is R222, the spec's decision D31; that memory is kept is the model's choice (log 19). -/
def Obligations.ResetEventGivesResetState : Prop :=
  (∀ (s : State) (d : ResetDraw), s.input.event = some (.reset d) →
    ∃ t : State, step s = .next t.nextInput ∧ t.mstatus = resetMstatus s.cfg d.mstatus ∧ t.mstatus.isReset s.cfg ∧
      t.mstatus = { d.mstatus with
        gva := false, mprv := false, mie := false, fs := t.mstatus.fs, vs := t.mstatus.vs } ∧
      (legalHas s.cfg.fsLegal d.mstatus.fs = true → t.mstatus.fs = d.mstatus.fs) ∧
      (legalHas s.cfg.vsLegal d.mstatus.vs = true → t.mstatus.vs = d.mstatus.vs) ∧
      t.priv = .M ∧ t.v = false ∧ t.pc = d.resetVector ∧ t.x = d.x ∧
      t.mstatus.read &&& 0x0000004F00020008#64 = 0x0000000500000000#64 ∧
      t.mstatus.read &&& 0x7FFFFF30FF818055#64 = 0#64 ∧ SameSurroundings s t) ∧
  (∀ (cfg : Config.Params) (m : Mstatus), m.isReset cfg → ∃ d, resetMstatus cfg d = m)

/-- The word read straight after `State.reset` meets the two mask equations of 10_state.md section 5 (R69), SD being what FS
and VS make it; the mode is M with `V` = 0. The values of the drawn fields are the model's (log 1). -/
def Obligations.ResetReadsAsTheSpecSays : Prop :=
  State.reset.mstatus.read &&& 0x0000004F00020008#64 = 0x0000000500000000#64 ∧
  State.reset.mstatus.read &&& 0x7FFFFF30FF818055#64 = 0#64 ∧
  State.reset.priv = .M ∧ State.reset.v = false ∧ State.reset.mstatus.isReset State.reset.cfg
end

