-- ==== Sys2Proof/Laws/State.lean ====
section
/-! SUPPORT. What each update of the state does to each field, so that no later proof unfolds a record update. -/

namespace Sys2Proof.Machine

/-! The inputs and the program counter. -/

@[simp] theorem State.nextInput_mstatus (s : State) : (s.nextInput).mstatus = s.mstatus := rfl
@[simp] theorem State.nextInput_priv (s : State) : (s.nextInput).priv = s.priv := rfl
@[simp] theorem State.nextInput_v (s : State) : (s.nextInput).v = s.v := rfl
@[simp] theorem State.nextInput_x (s : State) : (s.nextInput).x = s.x := rfl
@[simp] theorem State.nextInput_pc (s : State) : (s.nextInput).pc = s.pc := rfl
@[simp] theorem State.nextInput_wfiWaited (s : State) : (s.nextInput).wfiWaited = s.wfiWaited := rfl
@[simp] theorem State.nextInput_mem (s : State) : (s.nextInput).mem = s.mem := rfl
@[simp] theorem State.nextInput_cfg (s : State) : (s.nextInput).cfg = s.cfg := rfl
@[simp] theorem State.nextInput_schedule (s : State) : (s.nextInput).schedule = s.schedule.tail := rfl
@[simp] theorem State.nextInput_draws (s : State) : (s.nextInput).draws = s.draws + 1 := rfl
@[simp] theorem State.nextInput_lastTrap (s : State) : (s.nextInput).lastTrap = s.lastTrap := rfl

@[simp] theorem State.advancePc_mstatus (s : State) : (s.advancePc).mstatus = s.mstatus := rfl
@[simp] theorem State.advancePc_priv (s : State) : (s.advancePc).priv = s.priv := rfl
@[simp] theorem State.advancePc_v (s : State) : (s.advancePc).v = s.v := rfl
@[simp] theorem State.advancePc_x (s : State) : (s.advancePc).x = s.x := rfl
@[simp] theorem State.advancePc_pc (s : State) : (s.advancePc).pc = s.pc + 4#64 := rfl
@[simp] theorem State.advancePc_wfiWaited (s : State) : (s.advancePc).wfiWaited = s.wfiWaited := rfl
@[simp] theorem State.advancePc_mem (s : State) : (s.advancePc).mem = s.mem := rfl
@[simp] theorem State.advancePc_cfg (s : State) : (s.advancePc).cfg = s.cfg := rfl
@[simp] theorem State.advancePc_schedule (s : State) : (s.advancePc).schedule = s.schedule := rfl
@[simp] theorem State.advancePc_draws (s : State) : (s.advancePc).draws = s.draws := rfl
@[simp] theorem State.advancePc_lastTrap (s : State) : (s.advancePc).lastTrap = s.lastTrap := rfl

@[simp] theorem State.wfiComplete_mstatus (s : State) : (s.wfiComplete).mstatus = s.mstatus := rfl
@[simp] theorem State.wfiComplete_priv (s : State) : (s.wfiComplete).priv = s.priv := rfl
@[simp] theorem State.wfiComplete_v (s : State) : (s.wfiComplete).v = s.v := rfl
@[simp] theorem State.wfiComplete_x (s : State) : (s.wfiComplete).x = s.x := rfl
@[simp] theorem State.wfiComplete_pc (s : State) : (s.wfiComplete).pc = s.pc + 4#64 := rfl
@[simp] theorem State.wfiComplete_wfiWaited (s : State) : (s.wfiComplete).wfiWaited = 0 := rfl
@[simp] theorem State.wfiComplete_mem (s : State) : (s.wfiComplete).mem = s.mem := rfl
@[simp] theorem State.wfiComplete_cfg (s : State) : (s.wfiComplete).cfg = s.cfg := rfl
@[simp] theorem State.wfiComplete_schedule (s : State) : (s.wfiComplete).schedule = s.schedule := rfl
@[simp] theorem State.wfiComplete_draws (s : State) : (s.wfiComplete).draws = s.draws := rfl
@[simp] theorem State.wfiComplete_lastTrap (s : State) : (s.wfiComplete).lastTrap = s.lastTrap := rfl

@[simp] theorem State.wfiWait_mstatus (s : State) : (s.wfiWait).mstatus = s.mstatus := rfl
@[simp] theorem State.wfiWait_priv (s : State) : (s.wfiWait).priv = s.priv := rfl
@[simp] theorem State.wfiWait_v (s : State) : (s.wfiWait).v = s.v := rfl
@[simp] theorem State.wfiWait_x (s : State) : (s.wfiWait).x = s.x := rfl
@[simp] theorem State.wfiWait_pc (s : State) : (s.wfiWait).pc = s.pc := rfl
@[simp] theorem State.wfiWait_wfiWaited (s : State) : (s.wfiWait).wfiWaited = s.wfiWaited + 1 := rfl
@[simp] theorem State.wfiWait_mem (s : State) : (s.wfiWait).mem = s.mem := rfl
@[simp] theorem State.wfiWait_cfg (s : State) : (s.wfiWait).cfg = s.cfg := rfl
@[simp] theorem State.wfiWait_schedule (s : State) : (s.wfiWait).schedule = s.schedule := rfl
@[simp] theorem State.wfiWait_draws (s : State) : (s.wfiWait).draws = s.draws := rfl
@[simp] theorem State.wfiWait_lastTrap (s : State) : (s.wfiWait).lastTrap = s.lastTrap := rfl

/-! Trap entry and return. -/

@[simp] theorem State.enterM_mstatus (s : State) (c : Cause) : (s.enterM c).mstatus = 
    { s.mstatus with mpv := s.v, gva := s.gvaWritten c, mpp := s.priv, mpie := s.mstatus.mie, mie := false } := rfl
@[simp] theorem State.enterM_priv (s : State) (c : Cause) : (s.enterM c).priv = .M := rfl
@[simp] theorem State.enterM_v (s : State) (c : Cause) : (s.enterM c).v = false := rfl
@[simp] theorem State.enterM_x (s : State) (c : Cause) : (s.enterM c).x = s.x := rfl
@[simp] theorem State.enterM_pc (s : State) (c : Cause) : (s.enterM c).pc = s.input.trapTarget := rfl
@[simp] theorem State.enterM_wfiWaited (s : State) (c : Cause) : (s.enterM c).wfiWaited = 0 := rfl
@[simp] theorem State.enterM_mem (s : State) (c : Cause) : (s.enterM c).mem = s.mem := rfl
@[simp] theorem State.enterM_cfg (s : State) (c : Cause) : (s.enterM c).cfg = s.cfg := rfl
@[simp] theorem State.enterM_schedule (s : State) (c : Cause) : (s.enterM c).schedule = s.schedule := rfl
@[simp] theorem State.enterM_draws (s : State) (c : Cause) : (s.enterM c).draws = s.draws := rfl
@[simp] theorem State.enterM_lastTrap (s : State) (c : Cause) : (s.enterM c).lastTrap = some c := rfl

@[simp] theorem State.enterHS_mstatus (s : State) (c : Cause) : (s.enterHS c).mstatus = 
    { s.mstatus with spp := s.priv == .S, spie := s.mstatus.sie, sie := false } := rfl
@[simp] theorem State.enterHS_priv (s : State) (c : Cause) : (s.enterHS c).priv = .S := rfl
@[simp] theorem State.enterHS_v (s : State) (c : Cause) : (s.enterHS c).v = false := rfl
@[simp] theorem State.enterHS_x (s : State) (c : Cause) : (s.enterHS c).x = s.x := rfl
@[simp] theorem State.enterHS_pc (s : State) (c : Cause) : (s.enterHS c).pc = s.input.trapTarget := rfl
@[simp] theorem State.enterHS_wfiWaited (s : State) (c : Cause) : (s.enterHS c).wfiWaited = 0 := rfl
@[simp] theorem State.enterHS_mem (s : State) (c : Cause) : (s.enterHS c).mem = s.mem := rfl
@[simp] theorem State.enterHS_cfg (s : State) (c : Cause) : (s.enterHS c).cfg = s.cfg := rfl
@[simp] theorem State.enterHS_schedule (s : State) (c : Cause) : (s.enterHS c).schedule = s.schedule := rfl
@[simp] theorem State.enterHS_draws (s : State) (c : Cause) : (s.enterHS c).draws = s.draws := rfl
@[simp] theorem State.enterHS_lastTrap (s : State) (c : Cause) : (s.enterHS c).lastTrap = some c := rfl

@[simp] theorem State.enterVS_mstatus (s : State) (c : Cause) : (s.enterVS c).mstatus = s.mstatus := rfl
@[simp] theorem State.enterVS_priv (s : State) (c : Cause) : (s.enterVS c).priv = .S := rfl
@[simp] theorem State.enterVS_v (s : State) (c : Cause) : (s.enterVS c).v = true := rfl
@[simp] theorem State.enterVS_x (s : State) (c : Cause) : (s.enterVS c).x = s.x := rfl
@[simp] theorem State.enterVS_pc (s : State) (c : Cause) : (s.enterVS c).pc = s.input.trapTarget := rfl
@[simp] theorem State.enterVS_wfiWaited (s : State) (c : Cause) : (s.enterVS c).wfiWaited = 0 := rfl
@[simp] theorem State.enterVS_mem (s : State) (c : Cause) : (s.enterVS c).mem = s.mem := rfl
@[simp] theorem State.enterVS_cfg (s : State) (c : Cause) : (s.enterVS c).cfg = s.cfg := rfl
@[simp] theorem State.enterVS_schedule (s : State) (c : Cause) : (s.enterVS c).schedule = s.schedule := rfl
@[simp] theorem State.enterVS_draws (s : State) (c : Cause) : (s.enterVS c).draws = s.draws := rfl
@[simp] theorem State.enterVS_lastTrap (s : State) (c : Cause) : (s.enterVS c).lastTrap = some c := rfl

@[simp] theorem State.returnM_mstatus (s : State) : (s.returnM).mstatus = 
    { s.mstatus with mie := s.mstatus.mpie, mpie := true, mpp := .U, mprv := false, mpv := s.mpvAfterMret } := rfl
@[simp] theorem State.returnM_priv (s : State) : (s.returnM).priv = s.mstatus.mpp := rfl
@[simp] theorem State.returnM_v (s : State) : (s.returnM).v = 
    (bif s.mstatus.mpp == .M then false else s.mstatus.mpv) := rfl
@[simp] theorem State.returnM_x (s : State) : (s.returnM).x = s.x := rfl
@[simp] theorem State.returnM_pc (s : State) : (s.returnM).pc = s.input.retTarget := rfl
@[simp] theorem State.returnM_wfiWaited (s : State) : (s.returnM).wfiWaited = s.wfiWaited := rfl
@[simp] theorem State.returnM_mem (s : State) : (s.returnM).mem = s.mem := rfl
@[simp] theorem State.returnM_cfg (s : State) : (s.returnM).cfg = s.cfg := rfl
@[simp] theorem State.returnM_schedule (s : State) : (s.returnM).schedule = s.schedule := rfl
@[simp] theorem State.returnM_draws (s : State) : (s.returnM).draws = s.draws := rfl
@[simp] theorem State.returnM_lastTrap (s : State) : (s.returnM).lastTrap = s.lastTrap := rfl

@[simp] theorem State.returnS_mstatus (s : State) : (s.returnS).mstatus = 
    { s.mstatus with sie := s.mstatus.spie, spie := true, spp := false, mprv := false } := rfl
@[simp] theorem State.returnS_priv (s : State) : (s.returnS).priv =  Priv.ofSpp s.mstatus.spp := rfl
@[simp] theorem State.returnS_v (s : State) : (s.returnS).v = s.input.sretNewV := rfl
@[simp] theorem State.returnS_x (s : State) : (s.returnS).x = s.x := rfl
@[simp] theorem State.returnS_pc (s : State) : (s.returnS).pc = s.input.retTarget := rfl
@[simp] theorem State.returnS_wfiWaited (s : State) : (s.returnS).wfiWaited = s.wfiWaited := rfl
@[simp] theorem State.returnS_mem (s : State) : (s.returnS).mem = s.mem := rfl
@[simp] theorem State.returnS_cfg (s : State) : (s.returnS).cfg = s.cfg := rfl
@[simp] theorem State.returnS_schedule (s : State) : (s.returnS).schedule = s.schedule := rfl
@[simp] theorem State.returnS_draws (s : State) : (s.returnS).draws = s.draws := rfl
@[simp] theorem State.returnS_lastTrap (s : State) : (s.returnS).lastTrap = s.lastTrap := rfl

/-! Reset and the host core. -/

@[simp] theorem State.resetBy_mstatus (s : State) (d : ResetDraw) : (s.resetBy d).mstatus = resetMstatus s.cfg d.mstatus := rfl
@[simp] theorem State.resetBy_priv (s : State) (d : ResetDraw) : (s.resetBy d).priv = .M := rfl
@[simp] theorem State.resetBy_v (s : State) (d : ResetDraw) : (s.resetBy d).v = false := rfl
@[simp] theorem State.resetBy_x (s : State) (d : ResetDraw) : (s.resetBy d).x = d.x := rfl
@[simp] theorem State.resetBy_pc (s : State) (d : ResetDraw) : (s.resetBy d).pc = d.resetVector := rfl
@[simp] theorem State.resetBy_wfiWaited (s : State) (d : ResetDraw) : (s.resetBy d).wfiWaited = 0 := rfl
@[simp] theorem State.resetBy_mem (s : State) (d : ResetDraw) : (s.resetBy d).mem = s.mem := rfl
@[simp] theorem State.resetBy_cfg (s : State) (d : ResetDraw) : (s.resetBy d).cfg = s.cfg := rfl
@[simp] theorem State.resetBy_schedule (s : State) (d : ResetDraw) : (s.resetBy d).schedule = s.schedule := rfl
@[simp] theorem State.resetBy_draws (s : State) (d : ResetDraw) : (s.resetBy d).draws = s.draws := rfl
@[simp] theorem State.resetBy_lastTrap (s : State) (d : ResetDraw) : (s.resetBy d).lastTrap = none := rfl

@[simp] theorem State.withFetchWord_mstatus (s : State) (n w : Nat) : (s.withFetchWord n w).mstatus = s.mstatus := rfl
@[simp] theorem State.withFetchWord_priv (s : State) (n w : Nat) : (s.withFetchWord n w).priv = s.priv := rfl
@[simp] theorem State.withFetchWord_v (s : State) (n w : Nat) : (s.withFetchWord n w).v = s.v := rfl
@[simp] theorem State.withFetchWord_x (s : State) (n w : Nat) : (s.withFetchWord n w).x = s.x := rfl
@[simp] theorem State.withFetchWord_pc (s : State) (n w : Nat) : (s.withFetchWord n w).pc = alignDown s.pc := rfl
@[simp] theorem State.withFetchWord_wfiWaited (s : State) (n w : Nat) : (s.withFetchWord n w).wfiWaited = s.wfiWaited := rfl
@[simp] theorem State.withFetchWord_mem (s : State) (n w : Nat) : (s.withFetchWord n w).mem = 
    s.mem.writeWord (alignDown s.pc) (tableWord n w) := rfl
@[simp] theorem State.withFetchWord_cfg (s : State) (n w : Nat) : (s.withFetchWord n w).cfg = s.cfg := rfl
@[simp] theorem State.withFetchWord_schedule (s : State) (n w : Nat) : (s.withFetchWord n w).schedule = quietHead s.schedule := rfl
@[simp] theorem State.withFetchWord_draws (s : State) (n w : Nat) : (s.withFetchWord n w).draws = s.draws := rfl
@[simp] theorem State.withFetchWord_lastTrap (s : State) (n w : Nat) : (s.withFetchWord n w).lastTrap = s.lastTrap := rfl

/-! The inputs are read from the schedule and the counter alone. -/

theorem State.input_congr {s t : State} (hs : t.schedule = s.schedule) (hd : t.draws = s.draws) : t.input = s.input := by
  simp only [State.input, hs, hd]

@[simp] theorem State.enterM_input (s : State) (c : Cause) : (s.enterM c).input = s.input := rfl
@[simp] theorem State.enterHS_input (s : State) (c : Cause) : (s.enterHS c).input = s.input := rfl

/-! The registers, for every update that keeps the register file. -/

theorem State.readX_congr {s t : State} (h : t.x = s.x) (r : Reg) : t.readX r = s.readX r := by
  simp only [State.readX, h]

end Sys2Proof.Machine
end

