-- ==== Sys2Proof/Laws/Encoding.lean ====
section
/-! SUPPORT. The fields of an encoded CSR instruction (30_encoding.md R101, R102). -/

namespace Sys2Proof

theorem getLsbD_csrWord (csr : CsrAddr) (src : BitVec 5) (f : BitVec 3) (rd : Reg) (i : Nat) :
    (csrWord csr src f rd).getLsbD i =
      if i < 7 then systemOpcode.getLsbD i
      else if i - 7 < 5 then rd.getLsbD (i - 7)
      else if i - 7 - 5 < 3 then f.getLsbD (i - 7 - 5)
      else if i - 7 - 5 - 3 < 5 then src.getLsbD (i - 7 - 5 - 3)
      else csr.getLsbD (i - 7 - 5 - 3 - 5) := by
  show BitVec.getLsbD (csr ++ src ++ f ++ rd ++ systemOpcode) i = _
  rw [BitVec.getLsbD_append, BitVec.getLsbD_append, BitVec.getLsbD_append, BitVec.getLsbD_append]

@[simp] theorem opcodeField_csrWord (csr : CsrAddr) (src : BitVec 5) (f : BitVec 3) (rd : Reg) :
    opcodeField (csrWord csr src f rd) = systemOpcode := by
  apply BitVec.eq_of_getLsbD_eq
  intro i hi
  simp [opcodeField, getLsbD_csrWord, hi]

@[simp] theorem rdField_csrWord (csr : CsrAddr) (src : BitVec 5) (f : BitVec 3) (rd : Reg) :
    rdField (csrWord csr src f rd) = rd := by
  apply BitVec.eq_of_getLsbD_eq
  intro i hi
  have h7 : ¬ 7 + i < 7 := by omega
  have e : 7 + i - 7 = i := by omega
  simp only [rdField, BitVec.getLsbD_extractLsb', getLsbD_csrWord, hi, h7, e, if_true, if_false, decide_true,
    Bool.true_and]

@[simp] theorem funct3Field_csrWord (csr : CsrAddr) (src : BitVec 5) (f : BitVec 3) (rd : Reg) :
    funct3Field (csrWord csr src f rd) = f := by
  apply BitVec.eq_of_getLsbD_eq
  intro i hi
  have h7 : ¬ 12 + i < 7 := by omega
  have h5 : ¬ 12 + i - 7 < 5 := by omega
  have e : 12 + i - 7 - 5 = i := by omega
  simp only [funct3Field, BitVec.getLsbD_extractLsb', getLsbD_csrWord, hi, h7, h5, e, if_true, if_false, decide_true,
    Bool.true_and]

@[simp] theorem rs1Field_csrWord (csr : CsrAddr) (src : BitVec 5) (f : BitVec 3) (rd : Reg) :
    rs1Field (csrWord csr src f rd) = src := by
  apply BitVec.eq_of_getLsbD_eq
  intro i hi
  have h7 : ¬ 15 + i < 7 := by omega
  have h5 : ¬ 15 + i - 7 < 5 := by omega
  have h3 : ¬ 15 + i - 7 - 5 < 3 := by omega
  have e : 15 + i - 7 - 5 - 3 = i := by omega
  simp only [rs1Field, BitVec.getLsbD_extractLsb', getLsbD_csrWord, hi, h7, h5, h3, e, if_true, if_false, decide_true,
    Bool.true_and]

@[simp] theorem csrField_csrWord (csr : CsrAddr) (src : BitVec 5) (f : BitVec 3) (rd : Reg) :
    csrField (csrWord csr src f rd) = csr := by
  apply BitVec.eq_of_getLsbD_eq
  intro i hi
  have h7 : ¬ 20 + i < 7 := by omega
  have h5 : ¬ 20 + i - 7 < 5 := by omega
  have h3 : ¬ 20 + i - 7 - 5 < 3 := by omega
  have h5' : ¬ 20 + i - 7 - 5 - 3 < 5 := by omega
  have e : 20 + i - 7 - 5 - 3 - 5 = i := by omega
  simp only [csrField, BitVec.getLsbD_extractLsb', getLsbD_csrWord, hi, h7, h5, h3, h5', e, if_false,
    decide_true, Bool.true_and]

/-- The mask of a CSR row keeps the opcode and `funct3`, so two words agree under it when those fields agree. -/
theorem and_csrMask_eq {v w : InstrWord} (ho : opcodeField v = opcodeField w) (hf : funct3Field v = funct3Field w) :
    v &&& 0x0000707F#32 = w &&& 0x0000707F#32 := by
  have bo : ∀ i, i < 7 → v.getLsbD i = w.getLsbD i := fun i hi => by
    have := congrArg (fun x : BitVec 7 => x.getLsbD i) ho
    simpa [opcodeField, BitVec.getLsbD_extractLsb', hi] using this
  have bf : ∀ i, i < 3 → v.getLsbD (12 + i) = w.getLsbD (12 + i) := fun i hi => by
    have := congrArg (fun x : BitVec 3 => x.getLsbD i) hf
    simpa only [funct3Field, BitVec.getLsbD_extractLsb', hi, decide_true, Bool.true_and] using this
  apply BitVec.eq_of_getLsbD_eq
  intro i hi
  rw [BitVec.getLsbD_and, BitVec.getLsbD_and]
  rcases Nat.lt_or_ge i 7 with h | h
  · rw [bo i h]
  · by_cases h' : 12 ≤ i ∧ i < 15
    · obtain ⟨k, rfl⟩ := Nat.exists_eq_add_of_le h'.1
      rw [bf k (by omega)]
    · have : (0x0000707F#32).getLsbD i = false := by
        interval_cases i <;> first | rfl | omega
      simp [this]

end Sys2Proof
end

