-- ==== Sys2Proof/Laws/Registers.lean ====
section
/-! SUPPORT. The integer register file (10_state.md R62). -/

namespace Sys2Proof.Machine

@[simp] theorem State.readX_zero (s : State) : s.readX 0#5 = 0#64 := by simp [State.readX]

@[simp] theorem State.writeX_zero (s : State) (w : Word) : s.writeX 0#5 w = s := by simp [State.writeX]

theorem regIndex_inj {r q : Reg} (hr : r ≠ 0#5) (hq : q ≠ 0#5) (h : regIndex r = regIndex q) : r = q := by
  have hr' : r.toNat ≠ 0 := fun e => hr (BitVec.eq_of_toNat_eq (by simpa using e))
  have hq' : q.toNat ≠ 0 := fun e => hq (BitVec.eq_of_toNat_eq (by simpa using e))
  simp only [regIndex] at h
  exact BitVec.eq_of_toNat_eq (by omega)

/-- Reading after a write: the register written holds the value, but for `x[0]`; the others are as before. -/
theorem State.readX_writeX (s : State) (r q : Reg) (w : Word) :
    (s.writeX r w).readX q = if q = r ∧ q ≠ 0#5 then w else s.readX q := by
  by_cases hr : r = 0#5
  · subst hr
    by_cases hq : q = 0#5 <;> simp [hq]
  · by_cases hq : q = 0#5
    · simp [hq]
    · by_cases hqr : q = r
      · subst hqr
        simp [State.readX, State.writeX, hq]
      · have hne : regIndex r ≠ regIndex q := fun e => hqr (regIndex_inj hr hq e).symm
        simp [State.readX, State.writeX, hr, hq, hqr, hne]

/-! A write of a register changes no other field. -/

@[simp] theorem State.writeX_mstatus (s : State) (r : Reg) (w : Word) : (s.writeX r w).mstatus = s.mstatus := by
  simp only [State.writeX]; split <;> rfl
@[simp] theorem State.writeX_priv (s : State) (r : Reg) (w : Word) : (s.writeX r w).priv = s.priv := by
  simp only [State.writeX]; split <;> rfl
@[simp] theorem State.writeX_v (s : State) (r : Reg) (w : Word) : (s.writeX r w).v = s.v := by
  simp only [State.writeX]; split <;> rfl
@[simp] theorem State.writeX_pc (s : State) (r : Reg) (w : Word) : (s.writeX r w).pc = s.pc := by
  simp only [State.writeX]; split <;> rfl
@[simp] theorem State.writeX_wfiWaited (s : State) (r : Reg) (w : Word) : (s.writeX r w).wfiWaited = s.wfiWaited := by
  simp only [State.writeX]; split <;> rfl
@[simp] theorem State.writeX_mem (s : State) (r : Reg) (w : Word) : (s.writeX r w).mem = s.mem := by
  simp only [State.writeX]; split <;> rfl
@[simp] theorem State.writeX_cfg (s : State) (r : Reg) (w : Word) : (s.writeX r w).cfg = s.cfg := by
  simp only [State.writeX]; split <;> rfl
@[simp] theorem State.writeX_schedule (s : State) (r : Reg) (w : Word) : (s.writeX r w).schedule = s.schedule := by
  simp only [State.writeX]; split <;> rfl
@[simp] theorem State.writeX_draws (s : State) (r : Reg) (w : Word) : (s.writeX r w).draws = s.draws := by
  simp only [State.writeX]; split <;> rfl
@[simp] theorem State.writeX_lastTrap (s : State) (r : Reg) (w : Word) : (s.writeX r w).lastTrap = s.lastTrap := by
  simp only [State.writeX]; split <;> rfl

end Sys2Proof.Machine
end

