-- ==== Sys2Proof/Laws/Fields.lean ====
section
/-! SUPPORT. The word read from `mstatus`, field by field, and the write functions (10_state.md R21, R48; 40_csr_access.md
R123 to R129). -/

namespace Sys2Proof.Machine

theorem legalHas_dirty (l : Config.LegalSet) : legalHas l dirty = true := rfl

theorem holdLegal_legal (l : Config.LegalSet) (v : BitVec 2) : legalHas l (holdLegal l v) = true := by
  simp only [holdLegal]
  split
  · assumption
  · rfl

theorem holdLegal_of_legal {l : Config.LegalSet} {v : BitVec 2} (h : legalHas l v = true) : holdLegal l v = v := by
  simp [holdLegal, h]

theorem State.wfFs_legal (s : State) (w : Word) : legalHas s.cfg.fsLegal (s.wfFs w) = true := by
  simp only [State.wfFs]
  split
  · assumption
  · exact holdLegal_legal _ _

theorem State.wfVs_legal (s : State) (w : Word) : legalHas s.cfg.vsLegal (s.wfVs w) = true := by
  simp only [State.wfVs]
  split
  · assumption
  · exact holdLegal_legal _ _

theorem Priv.ofCode_code (p : Priv) : Priv.ofCode p.code = some p := by cases p <;> rfl

/-- Every bit of the word read, by its number: the layout of R21. -/
theorem Mstatus.getLsbD_read (m : Mstatus) (n : Nat) :
    m.read.getLsbD n =
      match n with
      | 1 => m.sie | 3 => m.mie | 5 => m.spie | 7 => m.mpie | 8 => m.spp
      | 9 => m.vs.getLsbD 0 | 10 => m.vs.getLsbD 1
      | 11 => m.mpp.code.getLsbD 0 | 12 => m.mpp.code.getLsbD 1
      | 13 => m.fs.getLsbD 0 | 14 => m.fs.getLsbD 1
      | 17 => m.mprv | 18 => m.sum | 19 => m.mxr | 20 => m.tvm | 21 => m.tw | 22 => m.tsr
      | 32 => true | 34 => true | 38 => m.gva | 39 => m.mpv | 63 => m.sd
      | _ => false := by
  rw [Mstatus.read, BitVec.getLsbD_cast]
  by_cases h : n < 64
  · interval_cases n <;>
      simp only [Mstatus.bits, BitVec.getLsbD_append, Mstatus.mbe, Mstatus.sbe, Mstatus.ube, Mstatus.sxl, Mstatus.uxl,
        Mstatus.xs, Nat.reduceLT, Nat.reduceSub, if_true, if_false] <;>
      simp
  · rw [BitVec.getLsbD_of_ge _ _ (by omega)]
    split <;> first | omega | rfl

end Sys2Proof.Machine
end

