-- ==== Sys2Proof/Laws/Memory.lean ====
section
/-! SUPPORT. Memory: the canonical form is kept, and a read after a write (20_memory.md R82). -/

namespace Sys2Proof.Machine

theorem Memory.find_insert (m : Memory) (a c : Nat) (b : Byte) :
    Memory.find (Memory.insert m a b) c = if c = a then some b else Memory.find m c := by
  induction m with
  | nil => simp only [Memory.insert, Memory.find, eq_comm]
  | cons e m ih =>
    obtain ⟨d, v⟩ := e
    by_cases hca : c = a
    · subst hca
      simp only [Memory.insert]
      split
      · simp [Memory.find]
      · split <;> simp_all [Memory.find, eq_comm]
    · have hac : a ≠ c := Ne.symm hca
      simp only [Memory.insert]
      split
      · simp [Memory.find, hac]
      · split
        · next h => subst h; simp [Memory.find, hac]
        · simp [Memory.find, ih, hca]

/-- Reading a byte after a write of one. -/
theorem Memory.readByte_writeByte (m : Memory) (a c : Word) (b : Byte) :
    (m.writeByte a b).readByte c = if c = a then some b else m.readByte c := by
  simp only [Memory.readByte, Memory.writeByte, Memory.find_insert, BitVec.toNat_inj]

theorem Memory.mem_insert {m : Memory} {a : Nat} {b : Byte} {e : Host.Cell} (h : e ∈ Memory.insert m a b) :
    e = (a, b) ∨ e ∈ m := by
  induction m with
  | nil => simpa [Memory.insert] using h
  | cons f m ih =>
    obtain ⟨d, v⟩ := f
    simp only [Memory.insert] at h
    split at h
    · simpa using h
    · split at h
      · rcases List.mem_cons.1 h with h | h
        · exact .inl h
        · exact .inr (List.mem_cons_of_mem _ h)
      · rcases List.mem_cons.1 h with h | h
        · exact .inr (h ▸ List.mem_cons_self)
        · exact (ih h).imp id (List.mem_cons_of_mem _)

theorem Memory.insert_sorted {m : Memory} (a : Nat) (b : Byte) (h : m.Pairwise (fun c d => c.1 < d.1)) :
    (Memory.insert m a b).Pairwise (fun c d => c.1 < d.1) := by
  induction m with
  | nil => simp [Memory.insert]
  | cons f m ih =>
    obtain ⟨d, v⟩ := f
    obtain ⟨hd, hm⟩ := List.pairwise_cons.1 h
    simp only [Memory.insert]
    split
    · next hlt =>
      refine List.pairwise_cons.2 ⟨fun e he => ?_, h⟩
      rcases List.mem_cons.1 he with rfl | he
      · exact hlt
      · exact Nat.lt_trans hlt (hd e he)
    · split
      · next heq => subst heq; exact List.pairwise_cons.2 ⟨hd, hm⟩
      · next hlt hne =>
        refine List.pairwise_cons.2 ⟨fun e he => ?_, ih hm⟩
        rcases Memory.mem_insert he with rfl | he
        · show d < a
          omega
        · exact hd e he

theorem Memory.writeByte_wf {m : Memory} (a : Word) (b : Byte) (h : m.wf) : (m.writeByte a b).wf := by
  refine ⟨Memory.insert_sorted _ _ h.1, fun e he => ?_⟩
  rcases Memory.mem_insert he with rfl | he
  · exact a.isLt
  · exact h.2 e he

theorem Memory.writeBytes_wf {m : Memory} (l : List (Word × Byte)) (h : m.wf) : (m.writeBytes l).wf := by
  induction l generalizing m with
  | nil => exact h
  | cons e l ih => exact ih (Memory.writeByte_wf _ _ h)

theorem Memory.writeWord_wf {m : Memory} (a : Word) (w : InstrWord) (h : m.wf) : (m.writeWord a w).wf := by
  simp only [Memory.writeWord]
  exact Memory.writeByte_wf _ _ (Memory.writeByte_wf _ _ (Memory.writeByte_wf _ _ (Memory.writeByte_wf _ _ h)))

theorem reset_mem_wf : State.reset.mem.wf := by decide

theorem wordOfBytes_bytes (w : InstrWord) :
    wordOfBytes (w.extractLsb' 0 8) (w.extractLsb' 8 8) (w.extractLsb' 16 8) (w.extractLsb' 24 8) = w := by
  apply BitVec.eq_of_getLsbD_eq
  intro i hi
  simp only [wordOfBytes, BitVec.getLsbD_append, BitVec.getLsbD_extractLsb']
  rcases Nat.lt_or_ge i 8 with h | h
  · simp [h]
  · rcases Nat.lt_or_ge i 16 with h2 | h2
    · have : i - 8 < 8 := by omega
      have e : 8 + (i - 8) = i := by omega
      simp [Nat.not_lt.2 h, this, e]
    · rcases Nat.lt_or_ge i 24 with h3 | h3
      · have h' : ¬ i - 8 < 8 := by omega
        have : i - 8 - 8 < 8 := by omega
        have e : 16 + (i - 8 - 8) = i := by omega
        simp [Nat.not_lt.2 h, h', this, e]
      · have h' : ¬ i - 8 < 8 := by omega
        have h'' : ¬ i - 8 - 8 < 8 := by omega
        have : i - 8 - 8 - 8 < 8 := by omega
        have e : 24 + (i - 8 - 8 - 8) = i := by omega
        simp [Nat.not_lt.2 h, h', h'', this, e]

/-- A word written is the word read back. -/
theorem Memory.readWord_writeWord (m : Memory) (a : Word) (w : InstrWord) :
    (m.writeWord a w).readWord a = .ok w := by
  have h1 : a + 1 ≠ a := by simp
  have h2 : a + 2 ≠ a := by simp
  have h3 : a + 3 ≠ a := by simp
  have h4 : a + 2 ≠ a + 1 := by simp
  have h5 : a + 3 ≠ a + 1 := by simp
  have h6 : a + 3 ≠ a + 2 := by simp
  simp only [Memory.readWord, Memory.writeWord, Memory.readByte_writeByte, h1.symm, h2.symm, h3.symm, h4.symm,
    h5.symm, h6.symm, if_true, if_false, wordOfBytes_bytes]

end Sys2Proof.Machine
end

