-- ==== Sys2Proof/Laws/PerInstr.lean ====
section
/-! SUPPORT. Per-instruction family `Row`: the word of an instruction is selected by its own row of the opcode table
(30_encoding.md R105). -/

namespace Sys2Proof

/-- The word of `i` has the SYSTEM opcode, and the row of its mnemonic selects it: "`w & mask(I) == match(I)`". -/
def Laws.Row.Statement (i : Instr) : Prop :=
  opcodeField (encodeWord i) = systemOpcode ∧
  ∃ r ∈ opcodeTable, r.mnemonic = i.mnemonic ∧ r.selects (encodeWord i) = true

theorem csrWord_selected (csr : CsrAddr) (src : BitVec 5) (f : BitVec 3) (rd : Reg) (m : InstrWord)
    (h : csrWord 0#12 0#5 f 0#5 &&& 0x0000707F#32 = m) : csrWord csr src f rd &&& 0x0000707F#32 = m := by
  rw [← h]
  exact and_csrMask_eq (by simp) (by simp)

theorem Laws.Row.csrrw (csr : CsrAddr) (rd rs1 : Reg) : Laws.Row.Statement (.csrrw csr rd rs1) :=
  ⟨opcodeField_csrWord _ _ _ _, ⟨"csrrw", 0x00001073#32, 0x0000707F#32⟩, by decide, rfl,
    beq_iff_eq.2 (csrWord_selected _ _ _ _ _ (by decide))⟩

theorem Laws.Row.csrrs (csr : CsrAddr) (rd rs1 : Reg) : Laws.Row.Statement (.csrrs csr rd rs1) :=
  ⟨opcodeField_csrWord _ _ _ _, ⟨"csrrs", 0x00002073#32, 0x0000707F#32⟩, by decide, rfl,
    beq_iff_eq.2 (csrWord_selected _ _ _ _ _ (by decide))⟩

theorem Laws.Row.csrrc (csr : CsrAddr) (rd rs1 : Reg) : Laws.Row.Statement (.csrrc csr rd rs1) :=
  ⟨opcodeField_csrWord _ _ _ _, ⟨"csrrc", 0x00003073#32, 0x0000707F#32⟩, by decide, rfl,
    beq_iff_eq.2 (csrWord_selected _ _ _ _ _ (by decide))⟩

theorem Laws.Row.csrrwi (csr : CsrAddr) (rd : Reg) (uimm : BitVec 5) : Laws.Row.Statement (.csrrwi csr rd uimm) :=
  ⟨opcodeField_csrWord _ _ _ _, ⟨"csrrwi", 0x00005073#32, 0x0000707F#32⟩, by decide, rfl,
    beq_iff_eq.2 (csrWord_selected _ _ _ _ _ (by decide))⟩

theorem Laws.Row.csrrsi (csr : CsrAddr) (rd : Reg) (uimm : BitVec 5) : Laws.Row.Statement (.csrrsi csr rd uimm) :=
  ⟨opcodeField_csrWord _ _ _ _, ⟨"csrrsi", 0x00006073#32, 0x0000707F#32⟩, by decide, rfl,
    beq_iff_eq.2 (csrWord_selected _ _ _ _ _ (by decide))⟩

theorem Laws.Row.csrrci (csr : CsrAddr) (rd : Reg) (uimm : BitVec 5) : Laws.Row.Statement (.csrrci csr rd uimm) :=
  ⟨opcodeField_csrWord _ _ _ _, ⟨"csrrci", 0x00007073#32, 0x0000707F#32⟩, by decide, rfl,
    beq_iff_eq.2 (csrWord_selected _ _ _ _ _ (by decide))⟩

theorem Laws.Row.mret : Laws.Row.Statement .mret :=
  ⟨by decide, ⟨"mret", 0x30200073#32, 0xFFFFFFFF#32⟩, by decide, rfl, by decide⟩

theorem Laws.Row.sret : Laws.Row.Statement .sret :=
  ⟨by decide, ⟨"sret", 0x10200073#32, 0xFFFFFFFF#32⟩, by decide, rfl, by decide⟩

theorem Laws.Row.wfi : Laws.Row.Statement .wfi :=
  ⟨by decide, ⟨"wfi", 0x10500073#32, 0xFFFFFFFF#32⟩, by decide, rfl, by decide⟩

end Sys2Proof
end

