-- ==== Sys2Proof/Laws/Steps.lean ====
section
/-! SUPPORT. What a trap entry, an instruction, the host core and a step can do, each said once. -/

namespace Sys2Proof.Machine

/-- The mode a trap is taken into is one R194 allows. -/
theorem State.trapMode_allowed (s : State) : s.trapModeAllowed s.trapMode = true := by
  simp only [State.trapMode]
  split
  · assumption
  · rfl

/-- Everything a trap entry does. -/
theorem State.enter_trapTaken (s : State) (m : TrapMode) (c : Cause) : TrapTaken s (s.enter m c) m c := by
  cases m <;> exact ⟨⟨rfl, rfl, rfl⟩, rfl, rfl, rfl, fun _ => rfl, fun _ => rfl, rfl, rfl, rfl⟩

/-- Everything an instruction does when it raises. -/
theorem State.raise_exceptionTaken (s : State) (e : Exc) : ExceptionTaken s (s.raise e) e false :=
  ⟨s.trapMode, s.trapMode_allowed, fun h => by simp [State.trapMode, h], s.enter_trapTaken _ _⟩

/-- Everything a host-core instruction does when it completes. -/
theorem State.hostComplete_completed (s : State) (h : HostInstr) : HostCompleted s (s.hostComplete h) h := by
  have dirtied : s.mstatus.dirtied h.fp h.vec = { s.mstatus with
      fs := if h.fp = .written then 3#2 else s.mstatus.fs
      vs := if h.vec = .written then 3#2 else s.mstatus.vs } := by
    cases hf : h.fp <;> cases hv : h.vec <;> rfl
  have writes : (s.hostWrites h).priv = s.priv ∧ (s.hostWrites h).v = s.v ∧
      (s.hostWrites h).mem = s.mem.writeBytes h.fetchBytes ∧ (s.hostWrites h).lastTrap = s.lastTrap ∧
      (s.hostWrites h).cfg = s.cfg ∧ (s.hostWrites h).schedule = s.schedule ∧ (s.hostWrites h).draws = s.draws := by
    simp only [State.hostWrites]
    split <;> simp
  obtain ⟨hp, hv, hm, hl, hc, hs, hd⟩ := writes
  refine ⟨dirtied, rfl, hp, hv, fun r => ?_, hm, rfl, hl, hc, hs, hd⟩
  rw [State.readX_congr (show (s.hostComplete h).x = (s.hostWrites h).x from rfl)]
  cases hw : h.xWrite with
  | some rw =>
    simp only [State.hostWrites, hw]
    exact State.readX_writeX _ _ _ _
  | none => simp only [State.hostWrites, hw, State.readX]

/-- `mstatus` after a CSR access: the write functions of the value written, if one is. -/
def State.afterWrite (s : State) : Option Word → Mstatus
  | some w => s.writeMstatus w
  | none => s.mstatus

/-- Everything a CSR access does. -/
theorem State.csrAccess_completed (s : State) (rd : Reg) (w : Option Word) :
    CsrCompleted s (s.csrAccess rd w) rd (s.afterWrite w) := by
  cases w <;>
    exact ⟨by simp [State.csrAccess, State.afterWrite],
      fun r => State.readX_writeX { s with mstatus := _ } rd r s.mstatus.read,
      by simp [State.csrAccess], by simp [State.csrAccess], by simp [State.csrAccess], by simp [State.csrAccess],
      by simp [State.csrAccess], fun _ => by simp [State.csrAccess], by simp [State.csrAccess],
      by simp [State.csrAccess], by simp [State.csrAccess]⟩

/-- A CSR instruction on `mstatus` in M-mode has its effect (R120). -/
theorem csrInstr_machine {s : State} (h : s.priv = .M) (u : State) : csrInstr mstatusAddr s u = .next u := by
  simp [csrInstr, h]

/-- A CSR instruction on `mstatus` below M-mode raises Illegal Instruction (R121). -/
theorem csrInstr_below {s : State} (h : s.priv ≠ .M) (u : State) :
    csrInstr mstatusAddr s u = .next (s.raise .illegalInstruction) := by
  simp [csrInstr, h]

/-- The state after an instruction is one of these (R120, R150, R152, R165, R195). -/
theorem exec_cases {i : Instr} {s t : State} (h : exec i s = .next t) :
    (s.priv = .M ∧ ∃ rd w, t = s.csrAccess rd w) ∨
    (s.priv = .M ∧ t = s.returnM) ∨
    ((s.priv = .M ∨ (s.priv = .S ∧ s.v = false ∧ s.mstatus.tsr = false)) ∧ t = s.returnS) ∨
    t = s.wfiComplete ∨ t = s.wfiWait ∨
    (s.priv ≠ .M ∧ t = s.raise .illegalInstruction) := by
  have csr : ∀ {c : CsrAddr} {rd : Reg} {w : Option Word}, csrInstr c s (s.csrAccess rd w) = .next t →
      (s.priv = .M ∧ ∃ rd w, t = s.csrAccess rd w) ∨ (s.priv ≠ .M ∧ t = s.raise .illegalInstruction) := by
    intro c rd w h
    simp only [csrInstr] at h
    split at h
    · split at h
      · next hm => exact .inl ⟨hm, rd, w, (Host.Outcome.next.inj h).symm⟩
      · next hm => exact .inr ⟨hm, (Host.Outcome.next.inj h).symm⟩
    · cases h
  cases i with
  | csrrw | csrrs | csrrc | csrrwi | csrrsi | csrrci =>
    rcases csr h with h | h
    · exact .inl h
    · exact .inr (.inr (.inr (.inr (.inr h))))
  | mret =>
    simp only [exec, execMret, Host.Outcome.next.injEq] at h
    split at h
    · next hm => exact .inr (.inl ⟨hm, h.symm⟩)
    · next hm => exact .inr (.inr (.inr (.inr (.inr ⟨hm, h.symm⟩))))
  | sret =>
    cases hp : s.priv <;> cases hv : s.v <;> simp only [exec, execSret, hp, hv, Host.Outcome.next.injEq, reduceCtorEq] at h
    · exact .inr (.inr (.inr (.inr (.inr ⟨by simp, h.symm⟩))))
    · split at h
      · exact .inr (.inr (.inr (.inr (.inr ⟨by simp, h.symm⟩))))
      · next ht => exact .inr (.inr (.inl ⟨.inr ⟨rfl, rfl, by simpa using ht⟩, h.symm⟩))
    · exact .inr (.inr (.inl ⟨.inl rfl, h.symm⟩))
    · exact .inr (.inr (.inl ⟨.inl rfl, h.symm⟩))
  | wfi =>
    simp only [exec, execWfi] at h
    split at h
    · rw [Host.Outcome.next.injEq] at h
      split at h
      · exact .inr (.inr (.inr (.inr (.inl h.symm))))
      · exact .inr (.inr (.inr (.inl h.symm)))
    · next hr =>
      rw [Host.Outcome.next.injEq] at h
      split at h
      · have hm : s.priv ≠ .M := fun e => by simp [wfiRule, e] at hr
        exact .inr (.inr (.inr (.inr (.inr ⟨hm, h.symm⟩))))
      · exact .inr (.inr (.inr (.inl h.symm)))
    · cases h

/-- What an interrupt entry is (R192). -/
theorem State.interruptEntry_cases {s t : State} (h : s.interruptEntry = some t) :
    (s.input.mIntReady = true ∧ s.mIntGloballyEnabled = true ∧ t = s.enterM .interrupt) ∨
    (s.input.sIntReady = true ∧ s.sIntGloballyEnabled = true ∧ t = s.enterHS .interrupt) := by
  simp only [State.interruptEntry] at h
  split at h
  · next hc =>
    rw [Bool.and_eq_true] at hc
    exact .inl ⟨hc.1, hc.2, (Option.some.inj h).symm⟩
  · split at h
    · next hc =>
      rw [Bool.and_eq_true] at hc
      exact .inr ⟨hc.1, hc.2, (Option.some.inj h).symm⟩
    · cases h

/-- The state after a host-core move is a reset, a trap entry into a mode R194 allows, or a host-core instruction that
completed (70_reset_and_hazards.md R227). -/
theorem State.hostMove_cases {s t : State} (h : s.hostMove = some t) :
    (∃ d, s.input.event = some (.reset d) ∧ t = s.resetBy d) ∨
    (∃ m c, s.trapModeAllowed m = true ∧ t = s.enter m c) ∨
    (∃ hi, s.input.event = some (.hostInstr hi) ∧ s.hostFault hi = none ∧ t = s.hostComplete hi) := by
  have irq : ∀ {u : State}, s.interruptEntry = some u → ∃ m c, s.trapModeAllowed m = true ∧ u = s.enter m c := by
    intro u hu
    rcases State.interruptEntry_cases hu with ⟨_, _, rfl⟩ | ⟨_, he, rfl⟩
    · exact ⟨.M, .interrupt, rfl, rfl⟩
    · refine ⟨.HS, .interrupt, ?_, rfl⟩
      simp only [State.sIntGloballyEnabled, Bool.and_eq_true] at he
      exact he.1
  simp only [State.hostMove] at h
  split at h
  · next d hd => exact .inl ⟨d, hd, (Option.some.inj h).symm⟩
  · next hi he =>
    rw [Option.some.injEq] at h
    cases hq : s.interruptEntry with
    | some u =>
      rw [hq, Option.getD_some] at h
      exact h ▸ .inr (.inl (irq hq))
    | none =>
      rw [hq, Option.getD_none] at h
      simp only [State.hostInstr] at h
      split at h
      · next => exact .inr (.inl ⟨s.trapMode, _, s.trapMode_allowed, h.symm⟩)
      · next hf => exact .inr (.inr ⟨hi, he, hf, h.symm⟩)
  · next =>
    rw [Option.some.injEq] at h
    cases hq : s.interruptEntry with
    | some u =>
      rw [hq, Option.getD_some] at h
      exact h ▸ .inr (.inl (irq hq))
    | none =>
      rw [hq, Option.getD_none] at h
      exact .inr (.inl ⟨s.trapMode, _, s.trapMode_allowed, h.symm⟩)
  · cases hq : s.interruptEntry with
    | some u =>
      rw [hq, Option.some_or, Option.some.injEq] at h
      exact h ▸ .inr (.inl (irq hq))
    | none =>
      rw [hq, Option.none_or] at h
      simp only [State.vsInterruptEntry] at h
      split at h
      · next ha => exact .inr (.inl ⟨.VS, .interrupt, ha, (Option.some.inj h).symm⟩)
      · cases h
  · exact .inr (.inl (irq h))

/-- A step is a host-core move, or the instruction fetched at `pc` (R227). -/
theorem step_cases {s t : State} (h : step s = .next t) :
    (∃ u, s.hostMove = some u ∧ t = u.nextInput) ∨
    (s.hostMove = none ∧ ∃ i u, s.fetch = .next i ∧ exec i s = .next u ∧ t = u.nextInput) := by
  simp only [step] at h
  split at h
  · next u hu => exact .inl ⟨u, hu, (Host.Outcome.next.inj h).symm⟩
  · next hn =>
    split at h
    · next i hi =>
      cases he : exec i s with
      | next u =>
        rw [he] at h
        exact .inr ⟨hn, i, u, hi, he, (Host.Outcome.next.inj h).symm⟩
      | fault f => rw [he] at h; cases h
      | refused r => rw [he] at h; cases h
    · cases h
    · cases h

end Sys2Proof.Machine
end

