-- ==== Sys2Proof/Tests/Slice0.lean ====
section
/-! SUPPORT. Tests on single steps, with the values of 95_test_vectors.md and 30_encoding.md, and for every statement a
state and operands that meet its hypotheses together. -/

namespace Sys2Proof.Tests

open Sys2Proof.Machine

/-! Helpers. -/

/-- Inputs with no event: `trap_target` 0x100, `ret_target` 0x200, traps into M-mode. -/
def inputs : Inputs :=
  { event := none, mIntReady := false, sIntReady := false, wfiTimedOut := false, wfiWaits := false, sretNewV := false,
    trapMode := .M, gvaWritten := false, trapTarget := 0x100#64, retTarget := 0x200#64 }

/-- A state in a mode whose `mstatus` reads `w`, with given inputs, `pc` 0 and `x[5]` a given value. -/
def stateAt (v : Bool) (p : Priv) (w : Word) (i : Inputs) (x5 : Word) : State :=
  ({ State.reset with mstatus := State.reset.writeMstatus w, priv := p, v := v, schedule := [i] }).writeX 5#5 x5

/-- What a test looks at: the mode, the word read from `mstatus`, and `pc`. -/
def seen : Host.Outcome State Fault Refusal → Option (Bool × Priv × Word × Word)
  | .next t => some (t.v, t.priv, t.mstatus.read, t.pc)
  | _ => none

/-- The value of a register after the step. -/
def seenX (r : Reg) : Host.Outcome State Fault Refusal → Option Word
  | .next t => some (t.readX r)
  | _ => none

/-- The cause of the last trap after the step. -/
def seenTrap : Host.Outcome State Fault Refusal → Option Cause
  | .next t => t.lastTrap
  | _ => none

/-- The refusal, if the step ends in one. -/
def seenRefusal : Host.Outcome State Fault Refusal → Option Refusal
  | .refused r => some r
  | _ => none

/-- A host-core instruction that uses no unit and makes no load. -/
def plainHost : HostInstr :=
  { fp := .notUsed, vec := .notUsed, vmOp := none, load := none, xWrite := none, fetchBytes := [], nextPc := 4#64 }

/-! Well-formedness: the one check. -/

theorem test_wellFormed_mstatus : (Instr.csrrw 0x300#12 1#5 2#5).wellFormed = true := by decide
theorem test_illFormed_otherCsr : (Instr.csrrw 0x301#12 1#5 2#5).wellFormed = false := by decide

/-! Decoding: words written out bit by bit from R101 to R103 (30_encoding.md R112, 95_test_vectors.md). -/

theorem test_decode_csrrw : decodeTableWord 32 0b00110000000000101001000001110011 = some (.csrrw 0x300#12 0#5 5#5) := by decide
theorem test_decode_csrrs : decodeTableWord 32 0b00110000000000000010010101110011 = some (.csrrs 0x300#12 10#5 0#5) := by decide
theorem test_decode_csrrc : decodeTableWord 32 0b00110000000000101011000001110011 = some (.csrrc 0x300#12 0#5 5#5) := by decide
theorem test_decode_csrrwi : decodeTableWord 32 0b00110000000001000101010111110011 = some (.csrrwi 0x300#12 11#5 8#5) := by decide
theorem test_decode_csrrsi : decodeTableWord 32 0b00110000000001010110000001110011 = some (.csrrsi 0x300#12 0#5 10#5) := by decide
theorem test_decode_csrrci : decodeTableWord 32 0b00110000000001010111011001110011 = some (.csrrci 0x300#12 12#5 10#5) := by decide
theorem test_decode_mret : decodeTableWord 32 0b00110000001000000000000001110011 = some .mret := by decide
theorem test_decode_sret : decodeTableWord 32 0b00010000001000000000000001110011 = some .sret := by decide
theorem test_decode_wfi : decodeTableWord 32 0b00010000010100000000000001110011 = some .wfi := by decide
/-- An environment call is out of scope (R105). -/
theorem test_decode_ecall : decodeTableWord 32 0x00000073 = none := by decide
theorem test_decode_funct3_100 : decodeTableWord 32 0x30004073 = none := by decide
theorem test_decode_otherOpcode : decodeTableWord 32 0x00000013 = none := by decide

/-- No two rows of the opcode table select one word: their match words differ under both masks. -/
theorem test_rows_disjoint : opcodeTable.Pairwise
    (fun a b => a.matchBits &&& (a.maskBits &&& b.maskBits) ≠ b.matchBits &&& (a.maskBits &&& b.maskBits)) := by decide

/-! The CSR instructions (95_test_vectors.md 2.1). -/

/-- W2: every writable bit set. -/
theorem test_csrrw_allOnes :
    seen (exec (.csrrw 0x300#12 10#5 5#5) (stateAt false .M 0x0000000500000000#64 inputs 0xFFFFFFFFFFFFFFFF#64)) =
      some (false, .M, 0x800000C5007E7FAA#64, 4#64) := by decide
/-- X1: `rd == rs1` swaps. -/
theorem test_csrrw_swap :
    seenX 5#5 (exec (.csrrw 0x300#12 5#5 5#5) (stateAt false .M 0x0000000500000088#64 inputs 0x1800#64)) =
      some 0x0000000500000088#64 := by decide
/-- S1: FS from 0 to 3, SD follows. -/
theorem test_csrrs_fs :
    seen (exec (.csrrs 0x300#12 0#5 5#5) (stateAt false .M 0x0000000500000080#64 inputs 0x6000#64)) =
      some (false, .M, 0x8000000500006080#64, 4#64) := by decide +kernel
/-- P3: a read in HS-mode traps into M-mode. -/
theorem test_csrrs_belowM :
    seen (exec (.csrrs 0x300#12 11#5 0#5) (stateAt false .S 0x000000050000000A#64 inputs 0#64)) =
      some (false, .M, 0x0000000500000882#64, 0x100#64) := by decide
/-- C4: FS and VS from 3 to 1, SD drops. -/
theorem test_csrrc_fsVs :
    seen (exec (.csrrc 0x300#12 0#5 5#5) (stateAt false .M 0x8000000500006600#64 inputs 0x4400#64)) =
      some (false, .M, 0x0000000500002200#64, 4#64) := by decide +kernel
/-- R174: clearing bit 13 takes FS from 3 to 2. -/
theorem test_csrrc_fsLowBit :
    seen (exec (.csrrc 0x300#12 0#5 5#5) (stateAt false .M 0x8000000500006000#64 inputs 0x2000#64)) =
      some (false, .M, 0x0000000500004000#64, 4#64) := by decide +kernel
/-- I1. -/
theorem test_csrrwi_reads :
    seenX 11#5 (exec (.csrrwi 0x300#12 11#5 8#5) (stateAt false .M 0x8000008500027888#64 inputs 0#64)) =
      some 0x8000008500027888#64 := by decide
/-- I2: bits 4, 2 and 0 are dropped. -/
theorem test_csrrwi_31 :
    seen (exec (.csrrwi 0x300#12 0#5 31#5) (stateAt false .M 0x8000008500027888#64 inputs 0#64)) =
      some (false, .M, 0x000000050000000A#64, 4#64) := by decide
/-- I4. -/
theorem test_csrrsi_enables :
    seen (exec (.csrrsi 0x300#12 0#5 10#5) (stateAt false .M 0x0000000500001800#64 inputs 0#64)) =
      some (false, .M, 0x000000050000180A#64, 4#64) := by decide +kernel
/-- I8. -/
theorem test_csrrci_enables :
    seen (exec (.csrrci 0x300#12 12#5 10#5) (stateAt false .M 0x000000050000188A#64 inputs 0#64)) =
      some (false, .M, 0x0000000500001880#64, 4#64) := by decide +kernel

/-! Trap return (2.2). -/

/-- T1. -/
theorem test_mret_toS :
    seen (exec .mret (stateAt false .M 0x0000000500020880#64 inputs 0#64)) =
      some (false, .S, 0x0000000500000088#64, 0x200#64) := by decide
/-- T6: into VS-mode. -/
theorem test_mret_toGuest :
    seen (exec .mret (stateAt false .M 0x0000008500000880#64 inputs 0#64)) =
      some (true, .S, 0x0000000500000088#64, 0x200#64) := by decide
/-- T12: `sret` in M-mode. -/
theorem test_sret_fromM :
    seen (exec .sret (stateAt false .M 0x0000000500020002#64 inputs 0#64)) =
      some (false, .U, 0x0000000500000020#64, 0x200#64) := by decide
/-- T13, P5: TSR traps, and the trap entry records it. -/
theorem test_sret_tsr :
    seen (exec .sret (stateAt false .S 0x0000000500400120#64 inputs 0#64)) =
      some (false, .M, 0x0000000500400920#64, 0x100#64) := by decide

/-! wfi (2.3). -/

/-- F4. -/
theorem test_wfi_timeout :
    seenTrap (exec .wfi (stateAt false .S 0x0000000500200000#64 { inputs with wfiTimedOut := true } 0#64)) =
      some (.exception (some .illegalInstruction) false) := by decide
/-- F9. -/
theorem test_wfi_guest :
    seenRefusal (exec .wfi (stateAt true .U 0x0000000500000000#64 inputs 0#64)) = some .wfiVirtual := by decide

/-! Trap entry, interrupts, gates (2.3, 2.4; 42_wfi_and_gated_instructions.md R174). -/

/-- E2. -/
theorem test_entry_gva :
    seen (step (stateAt true .S 0x0000000500000008#64
      { inputs with event := some (.exception none false), gvaWritten := true } 0#64)) =
      some (false, .M, 0x000000C500000880#64, 0x100#64) := by decide
/-- R197: an interrupt in M-mode under MPRV = 1, MPV = 1, MPP = S makes no access, so GVA is 0. -/
theorem test_entry_gvaInterrupt :
    seen (step (stateAt false .M 0x0000008500020808#64 { inputs with mIntReady := true, gvaWritten := true } 0#64)) =
      some (false, .M, 0x0000000500021880#64, 0x100#64) := by decide
/-- E7. -/
theorem test_entry_HS :
    seen (step (stateAt false .U 0x0000000500000102#64
      { inputs with event := some (.exception none false), trapMode := .HS } 0#64)) =
      some (false, .S, 0x0000000500000020#64, 0x100#64) := by decide
/-- P1: with MIE = 1 a ready M-mode interrupt is taken before the next instruction. -/
theorem test_interrupt_taken :
    seen (step (stateAt false .M 0x0000000500000008#64 { inputs with mIntReady := true } 0#64)) =
      some (false, .M, 0x0000000500001880#64, 0x100#64) := by decide
/-- R174: (1, 0) and a floating-point write give (3, 0). -/
theorem test_fp_dirty :
    seen (step (stateAt false .M 0x0000000500002000#64
      { inputs with event := some (.hostInstr { plainHost with fp := .written }) } 0#64)) =
      some (false, .M, 0x8000000500006000#64, 4#64) := by decide
/-- R174: (0, 0) and a vector instruction give Illegal Instruction. -/
theorem test_vec_off :
    seenTrap (step (stateAt false .M 0x0000000500000000#64
      { inputs with event := some (.hostInstr { plainHost with vec := .used }) } 0#64)) =
      some (.exception (some .illegalInstruction) false) := by decide
/-- M4. -/
theorem test_effLdSt : (stateAt false .M 0x0000008500020800#64 inputs 0#64).effLdSt = ⟨true, .S⟩ := by decide
/-- V4. -/
theorem test_sumViolation : (stateAt false .M 0x0000000500020800#64 inputs 0#64).sumViolation true = true := by decide
/-- L2. -/
theorem test_loadReadable : (stateAt false .M 0x0000000500000000#64 inputs 0#64).loadReadable false true = false := by
  decide

/-! Fetch, from the state after reset: P1 at offset 0 with its bytes. -/

theorem test_step_fromReset :
    seen (step (State.reset.withFetchWord 32 0x30046073)) = some (false, .M, 0x0000000500000008#64, 4#64) := by decide +kernel
theorem test_memory_bytes : (State.reset.withFetchWord 32 0x30046073).mem =
    [(0, 0x73#8), (1, 0x60#8), (2, 0x04#8), (3, 0x30#8)] := by decide

/-! Witnesses: the hypotheses of each statement, met together. -/

def inM : State := stateAt false .M 0x0000000500000000#64 inputs 0#64
def inHS : State := stateAt false .S 0x0000000500000000#64 inputs 0#64
def inU : State := stateAt false .U 0x0000000500000000#64 inputs 0#64
def inVS : State := stateAt true .S 0x0000000500000000#64 inputs 0#64

theorem witness_EncodeOfDecodeIsTheWord : decodeWord 0x30200073#32 = .ok .mret := rfl
/-- A row of each mask, and a word no row selects. -/
theorem witness_DecodeFollowsMaskAndMatch :
    (∃ r ∈ opcodeTable, r.maskBits = 0x707F#32 ∧ 0x300455F3#32 &&& r.maskBits = r.matchBits ∧
      0x300455F3#32 &&& 0xFFF0707F#32 = 0x30000000#32 ||| r.matchBits) ∧
    (∃ r ∈ opcodeTable, 0x30200073#32 &&& r.maskBits = r.matchBits ∧ r.maskBits ≠ 0x707F#32) ∧
    ∀ r ∈ opcodeTable, 0x00000073#32 &&& r.maskBits ≠ r.matchBits := by decide
theorem witness_ForeignWordRefused :
    (inM.withFetchWord 32 0x13).hostMove = none ∧ aligned4 (inM.withFetchWord 32 0x13).pc = true ∧
      (inM.withFetchWord 32 0x13).mem.readWord (inM.withFetchWord 32 0x13).pc = .ok 0x13#32 ∧
      ∀ r ∈ opcodeTable, r.selects 0x13#32 = false := ⟨rfl, by decide, rfl, by decide⟩
theorem witness_StepRunsTheDecodedInstruction :
    let s := inM.withFetchWord 32 0x10500073
    s.hostMove = none ∧ aligned4 s.pc = true ∧ s.mem.readByte s.pc = some 0x73#8 ∧
      s.mem.readByte (s.pc + 1) = some 0x00#8 ∧ s.mem.readByte (s.pc + 2) = some 0x50#8 ∧
      s.mem.readByte (s.pc + 3) = some 0x10#8 ∧ decode [0x73#8, 0x00#8, 0x50#8, 0x10#8] = .ok (.wfi, []) :=
  ⟨rfl, by decide, by decide, by decide, by decide, by decide, rfl⟩
theorem witness_PlacedWordRunsNext : decodeWord 0x10200073#32 = .ok .sret := rfl
theorem witness_FetchStopsByName_misaligned :
    ({ inM with pc := 2#64 } : State).hostMove = none ∧ aligned4 ({ inM with pc := 2#64 } : State).pc = false :=
  ⟨rfl, by decide⟩
theorem witness_FetchStopsByName_unwritten :
    inM.hostMove = none ∧ aligned4 inM.pc = true ∧ inM.mem.readByte inM.pc = none := ⟨rfl, by decide, by decide⟩
theorem witness_WriteStoresPlainFields : inM.priv = .M ∧ Priv.S ≠ .M ∧ Priv.U ≠ .M := by decide
theorem witness_WriteOfFsAndVs_legal :
    legalHas inM.cfg.fsLegal ((0x6600#64).extractLsb' 13 2) = true ∧
      legalHas inM.cfg.vsLegal ((0x6600#64).extractLsb' 9 2) = true := by decide
theorem witness_WriteOfFsAndVs_refused :
    let s : State := { inM with cfg := { inM.cfg with fsLegal := ⟨true, false, false⟩, vsLegal := ⟨true, false, false⟩ } }
    legalHas s.cfg.fsLegal ((0x2200#64).extractLsb' 13 2) = false ∧
      legalHas s.cfg.vsLegal ((0x2200#64).extractLsb' 9 2) = false := by decide
theorem witness_WriteOfMpp :
    (0x0000#64).extractLsb' 11 2 = 0#2 ∧ (0x0800#64).extractLsb' 11 2 = 1#2 ∧ (0x1000#64).extractLsb' 11 2 = 2#2 ∧
      (0x1800#64).extractLsb' 11 2 = 3#2 ∧ inM.priv = .M := by decide
theorem witness_IgnoredBitsKeepReading :
    (Instr.csrrc 0x300#12 7#5 8#5).csr? = some mstatusAddr ∧ inM.priv = .M := by decide
theorem witness_ClosedFormOfWrite :
    inM.cfg.fsLegal = ⟨true, true, true⟩ ∧ inM.cfg.vsLegal = ⟨true, true, true⟩ ∧
      (0x7FAA#64).extractLsb' 11 2 ≠ 2#2 ∧ (0x77AA#64).extractLsb' 11 2 = 2#2 := by decide
theorem witness_WriteBackChangesNothing :
    legalHas inM.cfg.fsLegal inM.mstatus.fs = true ∧ legalHas inM.cfg.vsLegal inM.mstatus.vs = true := by decide
/-- The six CSR statements: `inM` for the first clause, the others for the second. -/
theorem witness_Csr : inM.priv = .M ∧ inHS.priv ≠ .M ∧ inU.priv ≠ .M ∧ (inVS.priv ≠ .M ∧ inVS.v = true) := by decide
theorem witness_CsrrwiWritesImmediate : inM.priv = .M ∧ inM.cfg.fsLegal.has0 = true ∧ inM.cfg.vsLegal.has0 = true := by
  decide
theorem witness_CsrEnables :
    inM.priv = .M ∧ legalHas inM.cfg.fsLegal inM.mstatus.fs = true ∧ legalHas inM.cfg.vsLegal inM.mstatus.vs = true := by
  decide
theorem witness_OtherCsrRefused :
    (Instr.csrrs 0x301#12 1#5 0#5).csr? = some 0x301#12 ∧ (0x301#12) ≠ 0x300#12 ∧
      (Instr.csrrci 0x2FF#12 1#5 0#5).csr? = some 0x2FF#12 ∧ (0x2FF#12) ≠ 0x300#12 := by decide
theorem witness_MretReturns : inM.priv = .M ∧ inM.mstatus.mpp ≠ .M ∧
    (stateAt false .M 0x0000000500001800#64 inputs 0#64).mstatus.mpp = .M := by decide
theorem witness_MretBelowMachineModeTraps : inVS.priv ≠ .M := by decide
theorem witness_SretReturns : inM.priv = .M ∧ (inHS.priv = .S ∧ inHS.v = false ∧ inHS.mstatus.tsr = false) ∧
    inM.mstatus.spp = false ∧ (stateAt false .M 0x0000000500000100#64 inputs 0#64).mstatus.spp = true := by decide
theorem witness_SretTraps :
    (let s := stateAt false .S 0x0000000500400000#64 inputs 0#64; s.priv = .S ∧ s.v = false ∧ s.mstatus.tsr = true) ∧
      inU.priv = .U ∧ inU.v = false := by decide
theorem witness_SretInGuestRefused : inVS.priv ≠ .M ∧ inVS.v = true := by decide
theorem witness_ReturnsClearMprv :
    inM.priv = .M ∧ (inHS.priv = .S ∧ inHS.v = false ∧ inHS.mstatus.tsr = false) ∧ inU.priv ≠ .M ∧
      (inU.priv = .U ∧ inU.v = false) := by decide
theorem witness_WfiCompletes_mayWait :
    inM.input.wfiWaits = false ∧ inM.priv = .M ∧
      inHS.input.wfiWaits = false ∧ inHS.priv = .S ∧ inHS.v = false ∧ inHS.mstatus.tw = false := by decide
theorem witness_WfiCompletes_inPeriod :
    (let s := stateAt false .S 0x0000000500200000#64 inputs 0#64
     s.input.wfiTimedOut = false ∧ s.priv = .S ∧ s.v = false ∧ s.mstatus.tw = true) ∧
    (inU.input.wfiTimedOut = false ∧ inU.priv = .U ∧ inU.v = false) ∧
    (let s := stateAt true .U 0x0000000500200000#64 inputs 0#64
     s.input.wfiTimedOut = false ∧ s.priv ≠ .M ∧ s.v = true ∧ s.mstatus.tw = true) := by decide
theorem witness_WfiTrapsAfterPeriod :
    (let s := stateAt true .S 0x0000000500200000#64 { inputs with wfiTimedOut := true } 0#64
     s.input.wfiTimedOut = true ∧ s.priv ≠ .M ∧ s.mstatus.tw = true) ∧
    (let s := stateAt false .U 0x0000000500000000#64 { inputs with wfiTimedOut := true } 0#64
     s.input.wfiTimedOut = true ∧ s.priv = .U ∧ s.v = false) := by decide
theorem witness_WfiMayKeepWaiting :
    (let s := stateAt false .M 0x0000000500200000#64 { inputs with wfiWaits := true } 0#64
     s.input.wfiWaits = true ∧ s.priv = .M) ∧
    (let s := stateAt false .S 0x0000000500000000#64 { inputs with wfiWaits := true } 0#64
     s.input.wfiWaits = true ∧ s.priv = .S ∧ s.v = false ∧ s.mstatus.tw = false) := by decide
theorem witness_WfiInGuestRefused : inVS.priv ≠ .M ∧ inVS.v = true ∧ inVS.mstatus.tw = false := by decide

/-- An exception of the host core in a state, with a target. -/
def hostExc (v : Bool) (p : Priv) (m : TrapMode) : State :=
  stateAt v p 0x0000000500000002#64 { inputs with event := some (.exception none false), trapMode := m } 0#64

theorem witness_TrapEntryIntoMachineMode_exception :
    (∃ e a, (hostExc false .S .M).input.event = some (.exception e a) ∧ Cause.exception none false = .exception e a) ∧
      (hostExc false .S .M).interruptEntry = none ∧ (hostExc false .S .M).input.trapMode = .M :=
  ⟨⟨none, false, by decide, rfl⟩, rfl, by decide⟩
theorem witness_TrapEntryIntoSupervisorMode_exception :
    (∃ e a, (hostExc false .U .HS).input.event = some (.exception e a)) ∧ (hostExc false .U .HS).interruptEntry = none ∧
      (hostExc false .U .HS).input.trapMode = .HS ∧ (hostExc false .U .HS).priv ≠ .M :=
  ⟨⟨none, false, by decide⟩, rfl, by decide, by decide⟩
theorem witness_TrapEntryIntoGuestKeepsMstatus_exception :
    (∃ e a, (hostExc true .U .VS).input.event = some (.exception e a)) ∧ (hostExc true .U .VS).input.trapMode = .VS ∧
      (hostExc true .U .VS).interruptEntry = none ∧ (hostExc true .U .VS).priv ≠ .M ∧ (hostExc true .U .VS).v = true :=
  ⟨⟨none, false, by decide⟩, by decide, rfl, by decide, by decide⟩
theorem witness_TrapEntryIntoGuestKeepsMstatus_interrupt :
    let s := stateAt true .S 0x0000000500000002#64 { inputs with event := some .vsInterrupt } 0#64
    s.input.event = some .vsInterrupt ∧ s.interruptEntry = none ∧ s.priv ≠ .M ∧ s.v = true :=
  ⟨by decide, rfl, by decide, by decide⟩
/-- An allowed entry; and a step that lowers the privilege level. -/
theorem witness_TrapNeverLowersPrivilege :
    (inVS.trapModeAllowed .HS = true ∧ TrapTaken inVS (inVS.enter .HS .interrupt) .HS .interrupt) ∧
    ∃ t, step (inM.withFetchWord 32 0x30200073) = .next t ∧
      t.priv.code.toNat < (inM.withFetchWord 32 0x30200073).priv.code.toNat :=
  ⟨⟨by decide, inVS.enter_trapTaken _ _⟩, _, rfl, by decide⟩
/-- M-mode with MPRV = 1, MPV = 1, MPP = S: a load sets GVA and an interrupt does not. -/
def underMprv : State := stateAt false .M 0x0000008500020800#64 { inputs with gvaWritten := true } 0#64
theorem witness_GvaNeedsGuestAddress :
    (underMprv.enterM (.exception (some (.pageFault .load)) true)).mstatus.gva = true ∧
      (underMprv.enterM (.exception (some .illegalInstruction) true)).mstatus.gva = true ∧
      (underMprv.enterM .interrupt).mstatus.gva = false ∧
      (underMprv.enterM (.exception (some .illegalInstruction) false)).mstatus.gva = false ∧
      (underMprv.enterM (.exception (some (.pageFault .fetch)) true)).mstatus.gva = false ∧
      ((stateAt true .U 0x0000000500000000#64 { inputs with gvaWritten := true } 0#64).enterM
        .interrupt).mstatus.gva = true := by decide
theorem witness_TrapEntryLeavesControls : TrapMode.M = .M ∧ inM.priv = .M := by decide
theorem witness_MretUndoesTrapEntry : inVS.Inv := by decide
theorem witness_SretUndoesTrapEntry : inU.priv ≠ .M ∧ inU.mstatus.tsr = false := by decide
theorem witness_GlobalInterruptEnables : inM.priv = .M ∧ inM.mstatus.mie = false := by decide

/-- A state with both interrupts ready. -/
def bothReady (v : Bool) (p : Priv) (w : Word) : State :=
  stateAt v p w { inputs with mIntReady := true, sIntReady := true } 0#64

theorem not_resets {s : State} (h : ∀ d, s.input.event ≠ some (.reset d)) : ¬ s.resets := fun ⟨d, hd⟩ => h d hd

theorem witness_MachineInterruptTakenFirst :
    ¬ (bothReady false .M 0x0000000500000008#64).resets ∧ (bothReady false .M 0x0000000500000008#64).input.mIntReady = true ∧
      (bothReady false .M 0x0000000500000008#64).mstatus.mie = true :=
  ⟨not_resets (fun _ => nofun), by decide, by decide⟩
theorem witness_TrapEntryIntoMachineMode_interrupt :
    ¬ (bothReady true .U 0#64).resets ∧ (bothReady true .U 0#64).input.mIntReady = true ∧
      (bothReady true .U 0#64).mIntGloballyEnabled = true ∧ Cause.interrupt = .interrupt :=
  ⟨not_resets (fun _ => nofun), by decide, by decide, rfl⟩

/-- HS-mode with its interrupt ready and SIE = 1. -/
def sReady : State := stateAt false .S 0x0000000500000002#64 { inputs with sIntReady := true } 0#64

theorem witness_SupervisorInterruptTaken :
    ¬ sReady.resets ∧ sReady.input.mIntReady = false ∧ sReady.input.sIntReady = true ∧ sReady.priv ≠ .M ∧
      sReady.mstatus.sie = true :=
  ⟨not_resets (fun _ => nofun), by decide, by decide, by decide, by decide⟩

theorem witness_TrapEntryIntoSupervisorMode_interrupt :
    ¬ sReady.resets ∧ sReady.input.mIntReady = false ∧ sReady.input.sIntReady = true ∧
      sReady.sIntGloballyEnabled = true := ⟨not_resets (fun _ => nofun), by decide, by decide, by decide⟩

/-- A state in which the host core executes an instruction. -/
def hosting (p : Priv) (w : Word) (h : HostInstr) : State :=
  stateAt false p w { inputs with event := some (.hostInstr h) } 0#64

theorem witness_UnitOffTraps :
    (let h := { plainHost with fp := .used }; let s := hosting .U 0x0000000500000600#64 h
     s.input.event = some (.hostInstr h) ∧ s.interruptEntry = none ∧ h.fp ≠ .notUsed ∧ s.mstatus.fs = 0#2) ∧
    (let h := { plainHost with vec := .written }; let s := hosting .U 0x0000000500006000#64 h
     s.input.event = some (.hostInstr h) ∧ s.interruptEntry = none ∧ h.vec ≠ .notUsed ∧ s.mstatus.vs = 0#2) :=
  ⟨⟨by decide, rfl, by decide, by decide⟩, by decide, rfl, by decide, by decide⟩
theorem witness_UnitWriteDirties :
    (let h := { plainHost with fp := .written, vec := .written }; let s := hosting .U 0x0000000500002200#64 h
     s.input.event = some (.hostInstr h) ∧ s.interruptEntry = none ∧ s.hostFault h = none) ∧
    (let h := { plainHost with fp := .written, load := some ⟨true, false, false, false⟩ }
     let s := hosting .M 0x0000000500004000#64 h
     s.input.event = some (.hostInstr h) ∧ s.interruptEntry = none ∧ s.hostFault h = none) :=
  ⟨⟨by decide, rfl, by decide⟩, by decide, rfl, by decide⟩
theorem witness_TvmTrapsItsOperations_traps :
    let h := { plainHost with vmOp := some .satpAccess }; let s := hosting .S 0x0000000500100000#64 h
    s.input.event = some (.hostInstr h) ∧ s.interruptEntry = none ∧ h.vmOp = some .satpAccess ∧
      s.mstatus.tvm = true ∧ s.mode ∈ s.cfg.tvmModes ∧ VmOp.satpAccess ∈ s.cfg.tvmTrappedOps :=
  ⟨by decide, rfl, rfl, by decide, by decide, by decide⟩
/-- TVM = 0; another mode; another operation. -/
theorem witness_TvmTrapsItsOperations_completes :
    let h := { plainHost with vmOp := some .satpAccess }
    let k := { plainHost with vmOp := some (.other 0) }
    ((hosting .S 0x0000000500000000#64 h).input.event = some (.hostInstr h) ∧
      (hosting .S 0x0000000500000000#64 h).interruptEntry = none ∧
      (hosting .S 0x0000000500000000#64 h).mstatus.tvm = false) ∧
    (hosting .U 0x0000000500100000#64 h).mode ∉ (hosting .U 0x0000000500100000#64 h).cfg.tvmModes ∧
    VmOp.other 0 ∉ (hosting .S 0x0000000500100000#64 k).cfg.tvmTrappedOps ∧
    h.fp = .notUsed ∧ h.vec = .notUsed ∧ h.load = none :=
  ⟨⟨by decide, rfl, by decide⟩, by decide, by decide, rfl, rfl, rfl⟩
/-- A load from a page in HS-mode with SUM = 0. -/
def loading (r x u sumFirst : Bool) : State :=
  hosting .S 0x0000000500000000#64 { plainHost with load := some ⟨r, x, u, sumFirst⟩ }

theorem witness_LoadPageChecks_event :
    (loading false true false false).input.event =
      some (.hostInstr { plainHost with load := some ⟨false, true, false, false⟩ }) ∧
    (loading false true false false).interruptEntry = none ∧
    (loading false true false false).gateRefuses { plainHost with load := some ⟨false, true, false, false⟩ } = false ∧
    (loading false true false false).mstatus.mxr = false ∧ (loading false true false false).sumViolation false = false :=
  ⟨by decide, rfl, by decide, by decide, by decide⟩
/-- A floating-point load with the unit on. -/
theorem witness_LoadPageChecks_fpLoad :
    let h := { plainHost with fp := .written, load := some ⟨false, false, false, false⟩ }
    let s := hosting .S 0x0000000500002000#64 h
    s.input.event = some (.hostInstr h) ∧ s.interruptEntry = none ∧ s.gateRefuses h = false ∧
      s.mstatus.mxr = false ∧ s.sumViolation false = false := ⟨by decide, rfl, by decide, by decide, by decide⟩
theorem witness_LoadPageChecks_sum :
    (loading true false true false).sumViolation true = true ∧ (loading false false true true).sumViolation true = true ∧
      (loading true false false false).sumViolation false = false ∧
      (loading true false true false).cfg.sumFaultKind = .illegalInstruction ∧
      ({ (loading true false true false) with
        cfg := { inM.cfg with sumFaultKind := .pageFault } } : State).cfg.sumFaultKind = .pageFault := by decide
theorem witness_SumViolationCondition :
    inHS.mstatus.sum = false ∧ inHS.priv = .S ∧ inHS.v = false ∧
      (let s := stateAt false .M 0x0000000500020800#64 inputs 0#64
       s.mstatus.sum = false ∧ s.priv = .M ∧ s.mstatus.mprv = true ∧ s.mstatus.mpp = .S) := by decide
theorem witness_EffectiveModeOfLoads :
    inM.mstatus.mprv = false ∧ (inVS.Inv ∧ inVS.priv ≠ .M) ∧
      (let s := stateAt false .M 0x0000000500021800#64 inputs 0#64; s.mstatus.mprv = true ∧ s.mstatus.mpp = .M) ∧
      (let s := stateAt false .M 0x0000000500020000#64 inputs 0#64; s.mstatus.mprv = true ∧ s.mstatus.mpp ≠ .M) := by
  decide
theorem witness_ByteOrderAndWidthFixed : (⟨false, .U⟩ : Mode).v = false ∧ (⟨true, .U⟩ : Mode).v = true := by decide
theorem witness_StepKeepsTheInvariant :
    (inM.withFetchWord 32 0x30200073).Inv ∧ ∃ t, step (inM.withFetchWord 32 0x30200073) = .next t :=
  ⟨by decide, _, rfl⟩
theorem witness_MachineModeEnteredOnlyByTrapOrReset :
    (∃ t, step (hostExc true .U .M) = .next t ∧ t.priv = .M) ∧ (hostExc true .U .M).priv ≠ .M :=
  ⟨⟨_, rfl, by decide⟩, by decide⟩
theorem witness_BelowMachineMode :
    (∃ t, step (hostExc false .S .HS) = .next t) ∧ (hostExc false .S .HS).priv ≠ .M ∧ ¬ (hostExc false .S .HS).resets :=
  ⟨⟨_, rfl⟩, by decide, not_resets (fun _ => nofun)⟩
theorem witness_StatusOnlyRisesToDirty :
    let s := hosting .U 0x0000000500002000#64 { plainHost with fp := .written }
    (∃ t, step s = .next t) ∧ s.priv ≠ .M ∧ ¬ s.resets :=
  ⟨⟨_, rfl⟩, by decide, not_resets (fun _ => nofun)⟩
theorem witness_ParametersNeverChange : ∃ t, step (hostExc false .S .M) = .next t := ⟨_, rfl⟩
theorem witness_ResetEventGivesResetState :
    let d : ResetDraw := ⟨State.reset.writeMstatus 0x007C7FA2#64, Vector.replicate 31 7#64, 0x80#64⟩
    (stateAt true .U 0#64 { inputs with event := some (.reset d) } 0#64).input.event = some (.reset d) ∧
      legalHas inM.cfg.fsLegal d.mstatus.fs = true ∧ legalHas inM.cfg.vsLegal d.mstatus.vs = true ∧
      Mstatus.reset.isReset inM.cfg := by decide

end Sys2Proof.Tests
end

section
namespace Sys2Proof.Machine

/-! SUPPORT. The host-core moves and the instructions as one list of the ways a step can go, over which the claims about
every step are split. -/

/-- The ways a step can go, with what each needs, before the inputs of the next step come up. A trap entry is one way,
whether an instruction, the host core or an interrupt is its cause. -/
inductive State.Moves (s : State) : State → Prop where
  | reset (d : ResetDraw) (event : s.input.event = some (.reset d)) : s.Moves (s.resetBy d)
  | trapEntry (m : TrapMode) (c : Cause) (allowed : s.trapModeAllowed m = true) : s.Moves (s.enter m c)
  | hostComplete (hi : HostInstr) (event : s.input.event = some (.hostInstr hi)) (noFault : s.hostFault hi = none) :
      s.Moves (s.hostComplete hi)
  | csrAccess (rd : Reg) (w : Option Word) (machine : s.priv = .M) : s.Moves (s.csrAccess rd w)
  | mret (machine : s.priv = .M) : s.Moves s.returnM
  | sret (allowed : s.priv = .M ∨ (s.priv = .S ∧ s.v = false ∧ s.mstatus.tsr = false)) : s.Moves s.returnS
  | wfiComplete : s.Moves s.wfiComplete
  | wfiWait : s.Moves s.wfiWait

theorem State.moves_of_hostMove {s t : State} (h : s.hostMove = some t) : s.Moves t := by
  rcases State.hostMove_cases h with ⟨d, hd, rfl⟩ | ⟨m, c, ha, rfl⟩ | ⟨hi, he, hf, rfl⟩
  · exact .reset d hd
  · exact .trapEntry m c ha
  · exact .hostComplete hi he hf

theorem State.moves_of_exec {i : Instr} {s t : State} (h : exec i s = .next t) : s.Moves t := by
  rcases exec_cases h with ⟨hm, rd, w, rfl⟩ | ⟨hm, rfl⟩ | ⟨ha, rfl⟩ | rfl | rfl | ⟨_, rfl⟩
  · exact .csrAccess rd w hm
  · exact .mret hm
  · exact .sret ha
  · exact .wfiComplete
  · exact .wfiWait
  · exact .trapEntry s.trapMode _ s.trapMode_allowed

/-- Every step goes one of the ways of `State.Moves`. -/
theorem State.moves_of_step {s t : State} (h : step s = .next t) : ∃ u, s.Moves u ∧ t = u.nextInput := by
  rcases step_cases h with ⟨u, hu, rfl⟩ | ⟨_, _, u, _, hu, rfl⟩
  · exact ⟨u, State.moves_of_hostMove hu, rfl⟩
  · exact ⟨u, State.moves_of_exec hu, rfl⟩

/-! Each way a step can go keeps the invariant (10_state.md R49, R61; 41_trap_return.md R156). -/

theorem resetMstatus_isReset (cfg : Config.Params) (d : Mstatus) : (resetMstatus cfg d).isReset cfg :=
  ⟨rfl, rfl, rfl, holdLegal_legal _ _, holdLegal_legal _ _⟩

theorem UnitUse.statusAfter_legal {l : Config.LegalSet} {v : BitVec 2} (u : UnitUse) (h : legalHas l v = true) :
    legalHas l (u.statusAfter v) = true := by
  cases u with
  | notUsed | used => exact h
  | written => exact legalHas_dirty l

theorem Priv.ofSpp_ne_M (spp : Bool) : Priv.ofSpp spp ≠ .M := by cases spp <;> decide

@[simp] theorem State.csrAccess_mem (s : State) (rd : Reg) (w : Option Word) : (s.csrAccess rd w).mem = s.mem := by
  simp [State.csrAccess]

/-- Only M-mode is a trap target from M-mode (60_exceptions.md R194). -/
theorem State.below_of_trapModeAllowed {s : State} {m : TrapMode} (allowed : s.trapModeAllowed m = true) (hm : m ≠ .M) :
    s.priv ≠ .M := by
  cases m with
  | M => exact absurd rfl hm
  | HS => simpa [State.trapModeAllowed] using allowed
  | VS =>
    simp only [State.trapModeAllowed, Bool.and_eq_true, bne_iff_ne] at allowed
    exact allowed.2

theorem State.resetBy_inv {s : State} (hs : s.Inv) (d : ResetDraw) : (s.resetBy d).Inv := by
  obtain ⟨_, _, _, _, hmem⟩ := hs
  obtain ⟨_, _, _, hfs, hvs⟩ := resetMstatus_isReset s.cfg d.mstatus
  exact ⟨fun _ => rfl, fun _ => rfl, hfs, hvs, hmem⟩

/-- A trap entry leaves MPRV (R200). It can be set in M-mode only, and a trap from M-mode goes to M-mode (R194). -/
theorem State.enter_inv {s : State} (hs : s.Inv) {m : TrapMode} (c : Cause) (allowed : s.trapModeAllowed m = true) :
    (s.enter m c).Inv := by
  obtain ⟨_, hmprv, hfs, hvs, hmem⟩ := hs
  cases m with
  | M => exact ⟨fun _ => rfl, fun _ => rfl, hfs, hvs, hmem⟩
  | HS | VS =>
    have below := State.below_of_trapModeAllowed allowed nofun
    exact ⟨nofun, fun h => absurd (hmprv h) below, hfs, hvs, hmem⟩

theorem State.hostComplete_inv {s : State} (hs : s.Inv) (hi : HostInstr) : (s.hostComplete hi).Inv := by
  obtain ⟨hv, hmprv, hfs, hvs, hmem⟩ := hs
  obtain ⟨_, _, epriv, ev, _, emem, _, _, ecfg, _⟩ := s.hostComplete_completed hi
  simp only [State.Inv, epriv, ev, emem, ecfg]
  exact ⟨hv, hmprv, hi.fp.statusAfter_legal hfs, hi.vec.statusAfter_legal hvs, Memory.writeBytes_wf _ hmem⟩

/-- In M-mode a CSR access may write any value: MPRV is free there, and the write functions keep FS and VS legal. -/
theorem State.csrAccess_inv {s : State} (hs : s.Inv) (machine : s.priv = .M) (rd : Reg) (w : Option Word) :
    (s.csrAccess rd w).Inv := by
  obtain ⟨hv, _, hfs, hvs, hmem⟩ := hs
  obtain ⟨hfs', hvs'⟩ :
      legalHas s.cfg.fsLegal (s.afterWrite w).fs = true ∧ legalHas s.cfg.vsLegal (s.afterWrite w).vs = true := by
    cases w with
    | none => exact ⟨hfs, hvs⟩
    | some w => exact ⟨s.wfFs_legal w, s.wfVs_legal w⟩
  obtain ⟨em, _, _, epriv, ev, _, _, _, ecfg, _⟩ := s.csrAccess_completed rd w
  simp only [State.Inv, em, epriv, ev, ecfg, State.csrAccess_mem]
  exact ⟨hv, fun _ => machine, hfs', hvs', hmem⟩

/-- Both returns clear MPRV (R155), whatever mode they go to. -/
theorem State.returnM_inv {s : State} (hs : s.Inv) : s.returnM.Inv := by
  obtain ⟨_, _, hfs, hvs, hmem⟩ := hs
  refine ⟨fun h => ?_, nofun, hfs, hvs, hmem⟩
  rw [State.returnM_priv] at h
  simp [h]

theorem State.returnS_inv {s : State} (hs : s.Inv) : s.returnS.Inv := by
  obtain ⟨_, _, hfs, hvs, hmem⟩ := hs
  exact ⟨fun h => absurd h (Priv.ofSpp_ne_M _), nofun, hfs, hvs, hmem⟩

theorem State.Moves.inv {s t : State} (h : s.Moves t) (hs : s.Inv) : t.Inv := by
  cases h with
  | reset d _ => exact State.resetBy_inv hs d
  | trapEntry m c allowed => exact State.enter_inv hs c allowed
  | hostComplete hi _ _ => exact State.hostComplete_inv hs hi
  | csrAccess rd w machine => exact State.csrAccess_inv hs machine rd w
  | mret _ => exact State.returnM_inv hs
  | sret _ => exact State.returnS_inv hs
  | wfiComplete | wfiWait => exact hs

/-- Settles O52: the invariant does not speak of the inputs, and each way a step can go keeps it. -/
theorem stepKeepsTheInvariant : Obligations.StepKeepsTheInvariant := by
  intro s t hs h
  obtain ⟨u, hu, rfl⟩ := State.moves_of_step h
  exact hu.inv hs

/-! How M-mode is entered from below (10_state.md R60; 60_exceptions.md R186). -/

theorem State.enter_priv_eq_M {s : State} {m : TrapMode} {c : Cause} (h : (s.enter m c).priv = .M) : m = .M := by
  cases m with
  | M => rfl
  | HS | VS => cases h

/-- From below M-mode, only a reset and a trap entry into M-mode lead to M-mode. -/
theorem State.Moves.machine_from_below {s t : State} (h : s.Moves t) (below : s.priv ≠ .M) (machine : t.priv = .M) :
    s.resets ∨ ∃ c, t = s.enterM c := by
  cases h with
  | reset d event => exact .inl ⟨d, event⟩
  | trapEntry m c _ =>
    obtain rfl := State.enter_priv_eq_M machine
    exact .inr ⟨c, rfl⟩
  | hostComplete hi _ _ =>
    obtain ⟨_, _, same, _⟩ := s.hostComplete_completed hi
    exact absurd (same ▸ machine) below
  | csrAccess _ _ was | mret was => exact absurd was below
  | sret _ => exact absurd machine (Priv.ofSpp_ne_M _)
  | wfiComplete | wfiWait => exact absurd machine below

/-- Settles O54: of the ways a step can go from below M-mode, a trap entry into M-mode is the only one but a reset that
ends there, and its updates are the ones named (R196). -/
theorem machineModeEnteredOnlyByTrapOrReset : Obligations.MachineModeEnteredOnlyByTrapOrReset := by
  intro s t h below machine
  obtain ⟨u, hu, rfl⟩ := State.moves_of_step h
  rcases hu.machine_from_below below machine with hr | ⟨c, rfl⟩
  · exact .inl hr
  · exact .inr ⟨rfl, rfl, rfl, rfl, rfl, rfl⟩

/-! The word and the mode after reset (10_state.md R69; 70_reset_and_hazards.md R222). -/

/-- Settles O59: the statement is about the one state `State.reset`, in which every field has a value to compute with. -/
theorem resetReadsAsTheSpecSays : Obligations.ResetReadsAsTheSpecSays :=
  ⟨by decide, by decide, rfl, rfl, rfl, rfl, rfl, rfl, rfl⟩

end Sys2Proof.Machine
end

section
namespace Sys2Proof.Machine

/-! SUPPORT. A step in which the host core reports an instruction (70_reset_and_hazards.md R227), by what the instruction
raises. -/

/-- Everything an exception does, whether an access raised it or not. -/
theorem State.trap_exceptionTaken (s : State) (e : Exc) (byAccess : Bool) :
    ExceptionTaken s (s.trap (.exception (some e) byAccess)) e byAccess :=
  ⟨s.trapMode, s.trapMode_allowed, fun allowed => by simp [State.trapMode, allowed], s.enter_trapTaken _ _⟩

/-- With no gate against it, a host-core instruction raises only what the page checks of its load do. -/
theorem State.hostFault_of_load {s : State} {h : HostInstr} {p : PageLoad} (gate : s.gateRefuses h = false)
    (load : h.load = some p) : s.hostFault h = (s.loadFault p).map fun e => .exception (some e) true := by
  simp [State.hostFault, gate, load]

section
variable {s : State} {h : HostInstr}
  (event : s.input.event = some (.hostInstr h)) (noInterrupt : s.interruptEntry = none)
include event noInterrupt

/-- With no interrupt to take, the step is the reported instruction. -/
theorem step_of_hostInstr : step s = .next (s.hostInstr h).nextInput := by
  simp [step, State.hostMove, event, noInterrupt]

theorem step_of_hostFault_some {e : Exc} {byAccess : Bool}
    (fault : s.hostFault h = some (.exception (some e) byAccess)) :
    ∃ t : State, step s = .next t.nextInput ∧ ExceptionTaken s t e byAccess := by
  refine ⟨_, step_of_hostInstr event noInterrupt, ?_⟩
  simp only [State.hostInstr, fault]
  exact s.trap_exceptionTaken e byAccess

theorem step_of_hostFault_none (noFault : s.hostFault h = none) :
    ∃ t : State, step s = .next t.nextInput ∧ HostCompleted s t h := by
  refine ⟨_, step_of_hostInstr event noInterrupt, ?_⟩
  simp only [State.hostInstr, noFault]
  exact s.hostComplete_completed h

end

/-! The two page checks of a load (20_memory.md section 4, R87 to R89). -/

theorem State.loadReadable_eq_true {s : State} {r x : Bool} :
    s.loadReadable r x = true ↔ r = true ∨ (s.mstatus.mxr = true ∧ x = true) := by
  simp [State.loadReadable]

theorem State.loadReadable_eq_false {s : State} {r x : Bool} :
    s.loadReadable r x = false ↔ r = false ∧ (s.mstatus.mxr = false ∨ x = false) := by
  simp [State.loadReadable, imp_iff_not_or]

theorem State.sumFault_of_illegalInstruction {s : State} (kind : s.cfg.sumFaultKind = .illegalInstruction) :
    s.sumFault = .illegalInstruction := by
  simp [State.sumFault, kind]

theorem State.sumFault_of_pageFault {s : State} (kind : s.cfg.sumFaultKind = .pageFault) :
    s.sumFault = .pageFault .load := by
  simp [State.sumFault, kind]

/-- The readability check fails, and the SUM check passes or comes after it. -/
theorem State.loadFault_of_not_readable {s : State} {p : PageLoad} (unreadable : s.loadReadable p.r p.x = false)
    (sum : s.sumViolation p.u = false ∨ p.sumFirst = false) : s.loadFault p = some (.pageFault .load) := by
  rcases sum with sum | sum <;> simp [State.loadFault, unreadable, sum]

/-- The SUM check fails, and the readability check passes or comes after it. -/
theorem State.loadFault_of_sumViolation {s : State} {p : PageLoad} (violation : s.sumViolation p.u = true)
    (mxr : s.loadReadable p.r p.x = true ∨ p.sumFirst = true) : s.loadFault p = some s.sumFault := by
  rcases mxr with mxr | mxr <;> simp [State.loadFault, violation, mxr]

/-- Both checks pass. -/
theorem State.loadFault_eq_none {s : State} {p : PageLoad} (noViolation : s.sumViolation p.u = false)
    (readable : s.loadReadable p.r p.x = true) : s.loadFault p = none := by
  simp [State.loadFault, noViolation, readable]

/-- Settles O48: the ungated load raises what its page checks do, and in each of the three cases that is known: the page
fault, the SUM fault, or nothing. -/
theorem loadPageChecks : Obligations.LoadPageChecks := by
  intro s h p event noInterrupt gate load
  have fault := State.hostFault_of_load gate load
  refine ⟨fun hr hx sum => ?_, fun violation first => ?_, fun noViolation hr => ?_⟩
  · rw [State.loadFault_of_not_readable (State.loadReadable_eq_false.2 ⟨hr, hx⟩) sum] at fault
    exact step_of_hostFault_some event noInterrupt fault
  · rw [← or_assoc, ← State.loadReadable_eq_true] at first
    rw [State.loadFault_of_sumViolation violation first] at fault
    obtain ⟨t, hstep, taken⟩ := step_of_hostFault_some event noInterrupt fault
    exact ⟨t, hstep, fun kind => State.sumFault_of_illegalInstruction kind ▸ taken,
      fun kind => State.sumFault_of_pageFault kind ▸ taken⟩
  · rw [State.loadFault_eq_none noViolation (State.loadReadable_eq_true.2 hr)] at fault
    exact step_of_hostFault_none event noInterrupt fault

/-- Settles O49: the check is the conjunction of the statement, as a truth value. -/
theorem sumViolationCondition : Obligations.SumViolationCondition := by
  intro s u
  simp [State.sumViolation, and_assoc]

/-! The mode loads and stores are made as (20_memory.md section 3, R84, R85). -/

theorem State.effLdSt_of_not_mprv {s : State} (mprv : s.mstatus.mprv = false) : s.effLdSt = s.mode := by
  simp [State.effLdSt, mprv]

theorem State.effLdSt_of_mprv_mpp_M {s : State} (mprv : s.mstatus.mprv = true) (mpp : s.mstatus.mpp = .M) :
    s.effLdSt = ⟨false, .M⟩ := by
  simp [State.effLdSt, mprv, mpp]

theorem State.effLdSt_of_mprv_mpp_ne_M {s : State} (mprv : s.mstatus.mprv = true) (mpp : s.mstatus.mpp ≠ .M) :
    s.effLdSt = ⟨s.mstatus.mpv, s.mstatus.mpp⟩ := by
  simp [State.effLdSt, mprv, mpp]

/-- In a state of the invariant MPRV is set in M-mode only (41_trap_return.md R156). -/
theorem State.Inv.mprv_eq_false {s : State} (hs : s.Inv) (below : s.priv ≠ .M) : s.mstatus.mprv = false := by
  obtain ⟨_, onlyMachine, _⟩ := hs
  exact Bool.eq_false_iff.2 fun mprv => below (onlyMachine mprv)

/-- Settles O50: the branches of `EffLdSt()`; below M-mode the invariant leaves only the one with MPRV = 0. -/
theorem effectiveModeOfLoads : Obligations.EffectiveModeOfLoads := fun _ =>
  ⟨State.effLdSt_of_not_mprv, State.effLdSt_of_mprv_mpp_M, State.effLdSt_of_mprv_mpp_ne_M,
    fun hs below => State.effLdSt_of_not_mprv (hs.mprv_eq_false below), rfl⟩

/-- Settles O51: with `V` = 0 each privilege level reads its own constant field (R28 to R31, R44); with `V` = 1 none is
read. -/
theorem byteOrderAndWidthFixed : Obligations.ByteOrderAndWidthFixed := by
  rintro ⟨v, priv⟩
  refine ⟨fun hv => ?_, fun hv => ?_⟩
  · obtain rfl : v = false := hv
    cases priv <;> exact ⟨rfl, rfl⟩
  · obtain rfl : v = true := hv
    exact ⟨rfl, rfl⟩

end Sys2Proof.Machine
end

section
namespace Sys2Proof

/-! SUPPORT. Decoding and encoding are inverse (30_encoding.md sections 1 and 3). -/

/-- A word with the SYSTEM opcode is put together again from its fields (R101, R102). -/
theorem csrWord_fields {w : InstrWord} (opcode : opcodeField w = systemOpcode) :
    csrWord (csrField w) (rs1Field w) (funct3Field w) (rdField w) = w := by
  rw [csrWord, ← opcode, csrField, rs1Field, funct3Field, rdField, opcodeField]
  rw [BitVec.extractLsb'_append_extractLsb'_eq_extractLsb' (show 20 = 15 + 5 from rfl),
    BitVec.extractLsb'_append_extractLsb'_eq_extractLsb' (show 15 = 12 + 3 from rfl),
    BitVec.extractLsb'_append_extractLsb'_eq_extractLsb' (show 12 = 7 + 5 from rfl),
    BitVec.extractLsb'_append_extractLsb'_eq_extractLsb' (show 7 = 0 + 7 from rfl)]
  exact BitVec.extractLsb'_eq_self

theorem decodeWord_encodeWord (i : Instr) : decodeWord (encodeWord i) = .ok i := by
  cases i with
  | csrrw | csrrs | csrrc | csrrwi | csrrsi | csrrci => simp [encodeWord, decodeWord, decodeSystem]
  | mret | sret | wfi => rfl

theorem encodeWord_of_decodePriv {w : InstrWord} {i : Instr} (h : decodePriv w = .ok i) : encodeWord i = w := by
  simp only [decodePriv] at h
  split at h
  · next hw => cases h; exact hw.symm
  · split at h
    · next hw => cases h; exact hw.symm
    · split at h
      · next hw => cases h; exact hw.symm
      · cases h

theorem encodeWord_of_decodeWord {w : InstrWord} {i : Instr} (h : decodeWord w = .ok i) : encodeWord i = w := by
  simp only [decodeWord] at h
  split at h
  · next opcode =>
    have fields := csrWord_fields opcode
    simp only [decodeSystem] at h
    split at h
    case h_1 => exact encodeWord_of_decodePriv h
    case h_8 => cases h
    all_goals
      next funct3 =>
      rw [(BitVec.toNat_eq_nat.1 funct3).2] at fields
      cases h
      exact fields
  · cases h

/-! A row of the opcode table selects the words that decode to an instruction of its mnemonic (R105). -/

theorem encodeWord_row (i : Instr) : Laws.Row.Statement i := by
  cases i with
  | csrrw csr rd rs1 => exact Laws.Row.csrrw csr rd rs1
  | csrrs csr rd rs1 => exact Laws.Row.csrrs csr rd rs1
  | csrrc csr rd rs1 => exact Laws.Row.csrrc csr rd rs1
  | csrrwi csr rd uimm => exact Laws.Row.csrrwi csr rd uimm
  | csrrsi csr rd uimm => exact Laws.Row.csrrsi csr rd uimm
  | csrrci csr rd uimm => exact Laws.Row.csrrci csr rd uimm
  | mret => exact Laws.Row.mret
  | sret => exact Laws.Row.sret
  | wfi => exact Laws.Row.wfi

/-- No two rows have the same mnemonic. -/
theorem opcodeTable_row_ext :
    ∀ r ∈ opcodeTable, ∀ r' ∈ opcodeTable, r.mnemonic = r'.mnemonic → r = r' := by decide

/-- The word of an instruction is selected by the only row of its mnemonic. -/
theorem encodeWord_selected {i : Instr} {r : TableRow} (hr : r ∈ opcodeTable) (mnemonic : i.mnemonic = r.mnemonic) :
    encodeWord i &&& r.maskBits = r.matchBits := by
  obtain ⟨_, r', hr', mnemonic', selects⟩ := encodeWord_row i
  obtain rfl := opcodeTable_row_ext r' hr' r hr (mnemonic'.trans mnemonic)
  exact beq_iff_eq.1 selects

theorem opcodeField_and_csrMask (w : InstrWord) : opcodeField (w &&& 0x0000707F#32) = opcodeField w := by
  rw [opcodeField, BitVec.extractLsb'_and]
  exact BitVec.and_allOnes

theorem funct3Field_and_csrMask (w : InstrWord) : funct3Field (w &&& 0x0000707F#32) = funct3Field w := by
  rw [funct3Field, BitVec.extractLsb'_and]
  exact BitVec.and_allOnes

/-- A word the mask and match of a CSR row select is a word of format CSR with the row's `funct3`. -/
theorem csrWord_fields_of_selected {w : InstrWord} {f : BitVec 3}
    (selected : w &&& 0x0000707F#32 = csrWord 0#12 0#5 f 0#5) :
    csrWord (csrField w) (rs1Field w) f (rdField w) = w := by
  have opcode : opcodeField w = systemOpcode := by
    rw [← opcodeField_and_csrMask, selected, opcodeField_csrWord]
  have funct3 : funct3Field w = f := by
    rw [← funct3Field_and_csrMask, selected, funct3Field_csrWord]
  exact funct3 ▸ csrWord_fields opcode

/-- A row with the mask of all bits selects its match only. -/
theorem eq_of_and_fullMask {w m : InstrWord} (selected : w &&& 0xFFFFFFFF#32 = m) : m = w :=
  selected.symm.trans BitVec.and_allOnes

theorem exists_encodeWord_of_selected {w : InstrWord} {r : TableRow} (hr : r ∈ opcodeTable)
    (selected : w &&& r.maskBits = r.matchBits) : ∃ i, encodeWord i = w ∧ i.mnemonic = r.mnemonic := by
  simp only [opcodeTable, List.mem_cons, List.not_mem_nil, or_false] at hr
  rcases hr with rfl | rfl | rfl | rfl | rfl | rfl | rfl | rfl | rfl
  · exact ⟨.csrrw _ _ _, csrWord_fields_of_selected selected, rfl⟩
  · exact ⟨.csrrs _ _ _, csrWord_fields_of_selected selected, rfl⟩
  · exact ⟨.csrrc _ _ _, csrWord_fields_of_selected selected, rfl⟩
  · exact ⟨.csrrwi _ _ _, csrWord_fields_of_selected selected, rfl⟩
  · exact ⟨.csrrsi _ _ _, csrWord_fields_of_selected selected, rfl⟩
  · exact ⟨.csrrci _ _ _, csrWord_fields_of_selected selected, rfl⟩
  · exact ⟨.mret, eq_of_and_fullMask selected, rfl⟩
  · exact ⟨.sret, eq_of_and_fullMask selected, rfl⟩
  · exact ⟨.wfi, eq_of_and_fullMask selected, rfl⟩

theorem row_selects_iff_decodes {w : InstrWord} {r : TableRow} (hr : r ∈ opcodeTable) :
    w &&& r.maskBits = r.matchBits ↔ ∃ i, decodeWord w = .ok i ∧ i.mnemonic = r.mnemonic := by
  constructor
  · intro selected
    obtain ⟨i, rfl, mnemonic⟩ := exists_encodeWord_of_selected hr selected
    exact ⟨i, decodeWord_encodeWord i, mnemonic⟩
  · rintro ⟨i, decoded, mnemonic⟩
    exact encodeWord_of_decodeWord decoded ▸ encodeWord_selected hr mnemonic

/-! The longer mask, which keeps the `csr` field as well (R105). -/

/-- An instruction that names a CSR is one of the six: its word is of format CSR or CSRI (R101, R102). -/
theorem encodeWord_of_csr? {i : Instr} {csr : CsrAddr} (names : i.csr? = some csr) :
    ∃ src f rd, encodeWord i = csrWord csr src f rd := by
  cases i with
  | csrrw | csrrs | csrrc | csrrwi | csrrsi | csrrci => cases names; exact ⟨_, _, _, rfl⟩
  | mret | sret | wfi => cases names

/-- An instruction whose row has the mask of the CSR rows names the CSR of its word. -/
theorem csr?_of_csrRow {i : Instr} {r : TableRow} (hr : r ∈ opcodeTable) (csrRow : r.maskBits = 0x0000707F#32)
    (mnemonic : i.mnemonic = r.mnemonic) : i.csr? = some (csrField (encodeWord i)) := by
  have notPriv : ∀ r ∈ opcodeTable, r.maskBits = 0x0000707F#32 →
      "mret" ≠ r.mnemonic ∧ "sret" ≠ r.mnemonic ∧ "wfi" ≠ r.mnemonic := by decide
  obtain ⟨notMret, notSret, notWfi⟩ := notPriv r hr csrRow
  cases i with
  | csrrw | csrrs | csrrc | csrrwi | csrrsi | csrrci => simp [Instr.csr?, encodeWord]
  | mret => exact absurd mnemonic notMret
  | sret => exact absurd mnemonic notSret
  | wfi => exact absurd mnemonic notWfi

/-- The longer mask clears the fields `rd` and `rs1` or `uimm`. -/
theorem csrWord_and_longMask (csr : CsrAddr) (src : BitVec 5) (f : BitVec 3) (rd : Reg) :
    csrWord csr src f rd &&& 0xFFF0707F#32 = csrWord csr 0#5 f 0#5 := by
  show (csr ++ src ++ f ++ rd ++ systemOpcode) &&&
    (BitVec.allOnes 12 ++ 0#5 ++ BitVec.allOnes 3 ++ 0#5 ++ BitVec.allOnes 7) = csr ++ 0#5 ++ f ++ 0#5 ++ systemOpcode
  simp only [BitVec.and_append, BitVec.and_allOnes, BitVec.and_zero]

theorem csrWord_mstatusAddr :
    ∀ f : BitVec 3, csrWord 0x300#12 0#5 f 0#5 = 0x30000000#32 ||| csrWord 0#12 0#5 f 0#5 := by decide

theorem csrWord_and_csrMask_self :
    ∀ f : BitVec 3, csrWord 0#12 0#5 f 0#5 &&& 0x0000707F#32 = csrWord 0#12 0#5 f 0#5 := by decide

theorem csrField_and_longMask (w : InstrWord) : csrField (w &&& 0xFFF0707F#32) = csrField w := by
  rw [csrField, BitVec.extractLsb'_and]
  exact BitVec.and_allOnes

section
variable {w : InstrWord} {r : TableRow} (hr : r ∈ opcodeTable) (csrRow : r.maskBits = 0x0000707F#32)
include hr csrRow

/-- A word the longer mask selects is one the row selects, with `mstatus` in its `csr` field. -/
theorem selected_of_longMask (selected : w &&& 0xFFF0707F#32 = 0x30000000#32 ||| r.matchBits) :
    w &&& r.maskBits = r.matchBits ∧ csrField w = 0x300#12 := by
  have ofMatch : ∀ r ∈ opcodeTable, r.maskBits = 0x0000707F#32 →
      (0x30000000#32 ||| r.matchBits) &&& 0x0000707F#32 = r.matchBits ∧
      csrField (0x30000000#32 ||| r.matchBits) = 0x300#12 := by decide
  obtain ⟨underMask, csr⟩ := ofMatch r hr csrRow
  constructor
  · calc w &&& r.maskBits
        = w &&& 0xFFF0707F#32 &&& 0x0000707F#32 := by rw [csrRow, BitVec.and_assoc]; rfl
      _ = r.matchBits := by rw [selected, underMask]
  · rw [← csrField_and_longMask, selected, csr]

/-- The word of an instruction of the row that names `mstatus` meets the longer mask. -/
theorem longMask_of_encodeWord {i : Instr} (mnemonic : i.mnemonic = r.mnemonic) (names : i.csr? = some 0x300#12) :
    encodeWord i &&& 0xFFF0707F#32 = 0x30000000#32 ||| r.matchBits := by
  obtain ⟨src, f, rd, word⟩ := encodeWord_of_csr? names
  have isMatch : csrWord 0#12 0#5 f 0#5 = r.matchBits := by
    rw [← encodeWord_selected hr mnemonic, csrRow, word,
      csrWord_selected _ _ _ _ _ (csrWord_and_csrMask_self f)]
  rw [word, csrWord_and_longMask, csrWord_mstatusAddr, isMatch]

theorem longMask_selects_iff_decodes :
    w &&& 0xFFF0707F#32 = 0x30000000#32 ||| r.matchBits ↔
      ∃ i, decodeWord w = .ok i ∧ i.mnemonic = r.mnemonic ∧ i.csr? = some 0x300#12 := by
  constructor
  · intro selected
    obtain ⟨byRow, csr⟩ := selected_of_longMask hr csrRow selected
    obtain ⟨i, decoded, mnemonic⟩ := (row_selects_iff_decodes hr).1 byRow
    have names := csr?_of_csrRow hr csrRow mnemonic
    rw [encodeWord_of_decodeWord decoded, csr] at names
    exact ⟨i, decoded, mnemonic, names⟩
  · rintro ⟨i, decoded, mnemonic, names⟩
    exact encodeWord_of_decodeWord decoded ▸ longMask_of_encodeWord hr csrRow mnemonic names

end

/-- Settles O4: decoding inverts encoding, and the word of an instruction is selected by the one row of its mnemonic. A
word that decodes is therefore selected by a row. -/
theorem decodeFollowsMaskAndMatch : Obligations.DecodeFollowsMaskAndMatch := by
  refine ⟨fun w r hr => ⟨row_selects_iff_decodes hr, longMask_selects_iff_decodes hr⟩, fun w unselected => ?_⟩
  cases decoded : decodeWord w with
  | error e => exact ⟨e, rfl⟩
  | ok i =>
    obtain ⟨_, r, hr, mnemonic, _⟩ := encodeWord_row i
    exact absurd ((row_selects_iff_decodes hr).2 ⟨i, decoded, mnemonic.symm⟩) (unselected r hr)

end Sys2Proof
end

section
namespace Sys2Proof.Machine

/-! The CSR instructions that name another CSR than `mstatus` (30_encoding.md section 1, R101). -/

/-- The meaning of an instruction that names a CSR goes through the check of the `csr` field. -/
theorem exec_of_csr? {i : Instr} {csr : CsrAddr} (names : i.csr? = some csr) (s : State) :
    ∃ completed, exec i s = csrInstr csr s completed := by
  cases i with
  | csrrw | csrrs | csrrc | csrrwi | csrrsi | csrrci => cases names; exact ⟨_, rfl⟩
  | mret | sret | wfi => cases names

theorem csrInstr_other {csr : CsrAddr} (other : csr ≠ mstatusAddr) (s u : State) :
    csrInstr csr s u = .refused (.csrOutOfScope csr) := by
  simp [csrInstr, other]

/-- Settles O22: each of the six CSR meanings checks the `csr` field before anything else. -/
theorem otherCsrRefused : Obligations.OtherCsrRefused := by
  intro i s csr names other
  obtain ⟨completed, meaning⟩ := exec_of_csr? names s
  exact meaning.trans (csrInstr_other other s completed)

end Sys2Proof.Machine
end

section
namespace Sys2Proof.Machine

/-! The control fields of M-mode below M-mode (40_csr_access.md section 1, R121; 60_exceptions.md R200). -/

/-- `t` has the TSR, TW, TVM, MXR and SUM of `s`, and MPRV only where `s` has it. -/
def ControlsHeld (s t : State) : Prop :=
  t.mstatus.tsr = s.mstatus.tsr ∧ t.mstatus.tw = s.mstatus.tw ∧ t.mstatus.tvm = s.mstatus.tvm ∧
  t.mstatus.mxr = s.mstatus.mxr ∧ t.mstatus.sum = s.mstatus.sum ∧
  (t.mstatus.mprv = true → s.mstatus.mprv = true)

theorem ControlsHeld.of_mstatus_eq {s t : State} (same : t.mstatus = s.mstatus) : ControlsHeld s t := by
  simp [ControlsHeld, same]

/-- No trap entry writes a control field (R200). -/
theorem State.enter_controlsHeld (s : State) (m : TrapMode) (c : Cause) : ControlsHeld s (s.enter m c) := by
  cases m with
  | M | HS => exact ⟨rfl, rfl, rfl, rfl, rfl, id⟩
  | VS => exact .of_mstatus_eq rfl

/-- The only ways to write a control field other than to clear MPRV are a reset and a write in M-mode. -/
theorem State.Moves.controlsHeld {s t : State} (h : s.Moves t) (below : s.priv ≠ .M) (noReset : ¬ s.resets) :
    ControlsHeld s t := by
  cases h with
  | reset d event => exact absurd ⟨d, event⟩ noReset
  | trapEntry m c _ => exact s.enter_controlsHeld m c
  | hostComplete hi _ _ => exact ⟨rfl, rfl, rfl, rfl, rfl, id⟩
  | csrAccess _ _ machine | mret machine => exact absurd machine below
  | sret _ => exact ⟨rfl, rfl, rfl, rfl, rfl, nofun⟩
  | wfiComplete | wfiWait => exact .of_mstatus_eq rfl

/-- Settles O55: of the ways a step can go from below M-mode, none but a reset writes a control field, but for `sret`,
which clears MPRV. -/
theorem controlsHeldBelowMachineMode : Obligations.ControlsHeldBelowMachineMode := by
  intro s t h below noReset
  obtain ⟨u, hu, rfl⟩ := State.moves_of_step h
  exact hu.controlsHeld below noReset

end Sys2Proof.Machine
end

section
namespace Sys2Proof.Machine

/-! SUPPORT. The fields of the word read, and the write functions where their value is known (10_state.md R21;
40_csr_access.md R126 to R128). -/

/-- The constant fields and the reserved bits, which have no storage (R124): together they read as one constant. -/
theorem Mstatus.read_and_ignoredMask (m : Mstatus) : m.read &&& 0x7FFFFF3FFF818055#64 = 0x500000000#64 := by
  apply BitVec.eq_of_getLsbD_eq
  intro n hn
  rw [BitVec.and_comm, BitVec.getLsbD_and, Mstatus.getLsbD_read]
  interval_cases n <;> rfl

theorem Mstatus.getLsbD_read_sd (m : Mstatus) : m.read.getLsbD 63 = (m.fs == 3#2 || m.vs == 3#2) := by
  rw [Mstatus.getLsbD_read]
  simp [Mstatus.sd, Mstatus.xs, dirty]

theorem Mstatus.getLsbD_read_mie (m : Mstatus) : m.read.getLsbD 3 = m.mie := m.getLsbD_read 3

theorem Mstatus.getLsbD_read_sie (m : Mstatus) : m.read.getLsbD 1 = m.sie := m.getLsbD_read 1

theorem Mstatus.fsBits_read (m : Mstatus) : fsBits m.read = m.fs := by
  apply BitVec.eq_of_getLsbD_eq
  intro n hn
  rw [fsBits, BitVec.getLsbD_extractLsb', Mstatus.getLsbD_read]
  interval_cases n <;> simp

theorem Mstatus.mppBits_read (m : Mstatus) : mppBits m.read = m.mpp.code := by
  apply BitVec.eq_of_getLsbD_eq
  intro n hn
  rw [mppBits, BitVec.getLsbD_extractLsb', Mstatus.getLsbD_read]
  interval_cases n <;> simp

theorem Mstatus.vsBits_read (m : Mstatus) : vsBits m.read = m.vs := by
  apply BitVec.eq_of_getLsbD_eq
  intro n hn
  rw [vsBits, BitVec.getLsbD_extractLsb', Mstatus.getLsbD_read]
  interval_cases n <;> simp

theorem State.wfFs_of_legal {s : State} {w : Word} (legal : legalHas s.cfg.fsLegal (fsBits w) = true) :
    s.wfFs w = fsBits w := if_pos legal

theorem State.wfVs_of_legal {s : State} {w : Word} (legal : legalHas s.cfg.vsLegal (vsBits w) = true) :
    s.wfVs w = vsBits w := if_pos legal

theorem State.wfFs_of_illegal {s : State} {w : Word} (illegal : legalHas s.cfg.fsLegal (fsBits w) = false) :
    s.wfFs w = s.ulFs w := by
  simp [State.wfFs, illegal]

theorem State.wfVs_of_illegal {s : State} {w : Word} (illegal : legalHas s.cfg.vsLegal (vsBits w) = false) :
    s.wfVs w = s.ulVs w := by
  simp [State.wfVs, illegal]

theorem State.wfMpp_of_code {s : State} {w : Word} (p : Priv) (code : mppBits w = p.code) : s.wfMpp w = p := by
  simp [State.wfMpp, code, Priv.ofCode_code]

theorem State.wfMpp_of_two {s : State} {w : Word} (two : mppBits w = 2#2) : s.wfMpp w = s.ulMpp w := by
  simp [State.wfMpp, two, Priv.ofCode]

theorem Priv.eq_code_of_ne_two :
    ∀ c : BitVec 2, c ≠ 2#2 → c = Priv.U.code ∨ c = Priv.S.code ∨ c = Priv.M.code := by decide

theorem State.code_wfMpp_of_ne_two (s : State) {w : Word} (level : mppBits w ≠ 2#2) :
    (s.wfMpp w).code = mppBits w := by
  rcases Priv.eq_code_of_ne_two _ level with code | code | code <;> rw [State.wfMpp_of_code _ code, code]

theorem legalHas_full : ∀ v : BitVec 2, legalHas ⟨true, true, true⟩ v = true := by decide

end Sys2Proof.Machine
end

section
namespace Sys2Proof.Machine

/-! SUPPORT. The meanings of the six CSR instructions on `mstatus`: an access in M-mode, a trap below it
(40_csr_access.md R120, R121). -/

/-- Each of the six meanings is a CSR access behind the two checks. -/
theorem exec_csrAccess {i : Instr} {csr : CsrAddr} (names : i.csr? = some csr) (s : State) :
    ∃ rd w, exec i s = csrInstr csr s (s.csrAccess rd w) := by
  cases i with
  | csrrw | csrrs | csrrc | csrrwi | csrrsi | csrrci => cases names; exact ⟨_, _, rfl⟩
  | mret | sret | wfi => cases names

/-- Below M-mode, whatever `V`, each of the six raises Illegal Instruction (R121). -/
theorem exec_csr_below {i : Instr} (names : i.csr? = some mstatusAddr) {s : State} (below : s.priv ≠ .M) :
    ∃ t, exec i s = .next t ∧ IllegalTaken s t := by
  obtain ⟨completed, meaning⟩ := exec_of_csr? names s
  exact ⟨_, meaning.trans (csrInstr_below below completed), s.raise_exceptionTaken _⟩

section
variable {s : State} (machine : s.priv = .M) (rd rs1 : Reg) (uimm : BitVec 5)
include machine

theorem exec_csrrw_machine :
    exec (.csrrw mstatusAddr rd rs1) s = .next (s.csrAccess rd (some (s.readX rs1))) := csrInstr_machine machine _

theorem exec_csrrs_machine : exec (.csrrs mstatusAddr rd rs1) s =
    .next (s.csrAccess rd (setValue rs1 s.mstatus.read (s.readX rs1))) := csrInstr_machine machine _

theorem exec_csrrc_machine : exec (.csrrc mstatusAddr rd rs1) s =
    .next (s.csrAccess rd (clearValue rs1 s.mstatus.read (s.readX rs1))) := csrInstr_machine machine _

theorem exec_csrrwi_machine :
    exec (.csrrwi mstatusAddr rd uimm) s = .next (s.csrAccess rd (some (immOperand uimm))) :=
  csrInstr_machine machine _

theorem exec_csrrsi_machine : exec (.csrrsi mstatusAddr rd uimm) s =
    .next (s.csrAccess rd (setValue uimm s.mstatus.read (immOperand uimm))) := csrInstr_machine machine _

theorem exec_csrrci_machine : exec (.csrrci mstatusAddr rd uimm) s =
    .next (s.csrAccess rd (clearValue uimm s.mstatus.read (immOperand uimm))) := csrInstr_machine machine _

end

@[simp] theorem State.csrAccess_mstatus (s : State) (rd : Reg) (w : Option Word) :
    (s.csrAccess rd w).mstatus = s.afterWrite w := (s.csrAccess_completed rd w).1

@[simp] theorem State.csrAccess_priv (s : State) (rd : Reg) (w : Option Word) :
    (s.csrAccess rd w).priv = s.priv := by simp [State.csrAccess]

/-- A set form writes the old word with the bits of its operand set, or nothing (R131, R134). -/
theorem State.afterWrite_setValue (s : State) (field : BitVec 5) (t src : Word) :
    s.afterWrite (setValue field t src) = if field = 0#5 then s.mstatus else s.writeMstatus (t ||| src) := by
  by_cases zero : field = 0#5 <;> simp [setValue, State.afterWrite, zero]

/-- A clear form writes the old word with the bits of its operand cleared, or nothing (R132, R135). -/
theorem State.afterWrite_clearValue (s : State) (field : BitVec 5) (t src : Word) :
    s.afterWrite (clearValue field t src) = if field = 0#5 then s.mstatus else s.writeMstatus (t &&& ~~~src) := by
  by_cases zero : field = 0#5 <;> simp [clearValue, State.afterWrite, zero]

end Sys2Proof.Machine
end

section
namespace Sys2Proof.Machine

/-! What a write ignores, its closed form, and the write of the word read (40_csr_access.md section 2). -/

/-- A bit without storage reads the same in every `mstatus`. -/
theorem Mstatus.getLsbD_read_ignored (m m' : Mstatus) {n : Nat}
    (ignored : (0x7FFFFF3FFF818055#64).getLsbD n = true) : m.read.getLsbD n = m'.read.getLsbD n := by
  have same := congrArg (BitVec.getLsbD · n) (m.read_and_ignoredMask.trans m'.read_and_ignoredMask.symm)
  simpa only [BitVec.getLsbD_and, ignored, Bool.and_true] using same

/-- Settles O13: what the instruction writes does not matter, since the bits named are the ones without storage. -/
theorem ignoredBitsKeepReading : Obligations.IgnoredBitsKeepReading := by
  intro i s names machine
  obtain ⟨rd, w, meaning⟩ := exec_csrAccess names s
  obtain ⟨_, _, epc, _, _, _, etrap, _⟩ := s.csrAccess_completed rd w
  refine ⟨_, meaning.trans (csrInstr_machine machine _), etrap, epc, fun n bits => ?_, Mstatus.getLsbD_read_sd _⟩
  apply Mstatus.getLsbD_read_ignored
  rcases bits with rfl | rfl | rfl | rfl | rfl | rfl | ⟨low, high⟩ | ⟨low, high⟩
  iterate 6 · rfl
  all_goals interval_cases n <;> rfl

/-- After a write that stores FS and VS as written, the word read has the bits written, of every field but MPP. -/
theorem State.read_writeMstatus_and {s : State} {w : Word} (fs : s.wfFs w = fsBits w) (vs : s.wfVs w = vsBits w) :
    (s.writeMstatus w).read &&& 0xC0007E67AA#64 = w &&& 0xC0007E67AA#64 := by
  apply BitVec.eq_of_getLsbD_eq
  intro n hn
  rw [BitVec.getLsbD_and, BitVec.getLsbD_and, Mstatus.getLsbD_read]
  interval_cases n <;> simp [State.writeMstatus, fs, vs, fsBits, vsBits]

/-- The writable mask is that of the other fields with the two bits of MPP. -/
theorem and_writableMask_eq {v w : Word} (others : v &&& 0xC0007E67AA#64 = w &&& 0xC0007E67AA#64)
    (mpp : mppBits v = mppBits w) : v &&& 0xC0007E7FAA#64 = w &&& 0xC0007E7FAA#64 := by
  have mppMask : ∀ u : Word, u &&& 0x1800#64 = (mppBits u).setWidth 64 <<< 11 := by
    intro u
    apply BitVec.eq_of_getLsbD_eq
    intro n hn
    interval_cases n <;> simp [mppBits]
  have split : 0xC0007E7FAA#64 = 0xC0007E67AA#64 ||| 0x1800#64 := rfl
  rw [split, BitVec.and_or_distrib_left, BitVec.and_or_distrib_left, others, mppMask, mppMask, mpp]

/-- Settles O14: with every value legal the write functions of FS and VS store what is written, and so does that of MPP
but for the code 2. -/
theorem closedFormOfWrite : Obligations.ClosedFormOfWrite := by
  intro s w fsLegal vsLegal
  have fs : s.wfFs w = fsBits w := State.wfFs_of_legal (fsLegal ▸ legalHas_full _)
  have vs : s.wfVs w = vsBits w := State.wfVs_of_legal (vsLegal ▸ legalHas_full _)
  have others := State.read_writeMstatus_and fs vs
  have mpp : mppBits (s.writeMstatus w).read = (s.wfMpp w).code := Mstatus.mppBits_read _
  refine ⟨Mstatus.read_and_ignoredMask _, ?_, fun level => ?_, fun two => ⟨others, ?_⟩⟩
  · rw [Mstatus.getLsbD_read_sd]
    exact congrArg₂ (fun f v => f == 3#2 || v == 3#2) fs vs
  · exact and_writableMask_eq others (mpp.trans (s.code_wfMpp_of_ne_two level))
  · exact mpp.trans (congrArg Priv.code (State.wfMpp_of_two two))

/-- Two words agree on the bits an immediate cannot reach (30_encoding.md R104). -/
def SameAboveImm (v w : Word) : Prop := ∀ n, 5 ≤ n → v.getLsbD n = w.getLsbD n

theorem SameAboveImm.extractLsb'_eq {v w : Word} (same : SameAboveImm v w) {start : Nat} (above : 5 ≤ start)
    (len : Nat) : v.extractLsb' start len = w.extractLsb' start len := by
  apply BitVec.eq_of_getLsbD_eq
  intro n _
  rw [BitVec.getLsbD_extractLsb', BitVec.getLsbD_extractLsb', same _ (by omega)]

/-- A write of the word read, changed within the low five bits, changes MIE and SIE only. -/
theorem State.writeMstatus_of_sameAboveImm {s : State} {w : Word} (same : SameAboveImm w s.mstatus.read)
    (fsLegal : legalHas s.cfg.fsLegal s.mstatus.fs = true) (vsLegal : legalHas s.cfg.vsLegal s.mstatus.vs = true) :
    s.writeMstatus w = { s.mstatus with mie := w.getLsbD 3, sie := w.getLsbD 1 } := by
  have fsw : fsBits w = s.mstatus.fs := (same.extractLsb'_eq (by decide) 2).trans s.mstatus.fsBits_read
  have vsw : vsBits w = s.mstatus.vs := (same.extractLsb'_eq (by decide) 2).trans s.mstatus.vsBits_read
  have mppw : mppBits w = s.mstatus.mpp.code := (same.extractLsb'_eq (by decide) 2).trans s.mstatus.mppBits_read
  have fs : s.wfFs w = s.mstatus.fs := fsw ▸ State.wfFs_of_legal (fsw.symm ▸ fsLegal)
  have vs : s.wfVs w = s.mstatus.vs := vsw ▸ State.wfVs_of_legal (vsw.symm ▸ vsLegal)
  have plain : ∀ n, 5 ≤ n → w.getLsbD n = _ := fun n above => (same n above).trans (s.mstatus.getLsbD_read n)
  simp [State.writeMstatus, fs, vs, State.wfMpp_of_code _ mppw, plain, -BitVec.getLsbD_eq_getElem]

/-- Settles O15: the word read is itself with nothing changed in the low five bits. -/
theorem writeBackChangesNothing : Obligations.WriteBackChangesNothing := by
  intro s fsLegal vsLegal
  rw [State.writeMstatus_of_sameAboveImm (fun _ _ => rfl) fsLegal vsLegal,
    Mstatus.getLsbD_read_mie, Mstatus.getLsbD_read_sie]

end Sys2Proof.Machine
end

section
namespace Sys2Proof.Machine

/-! The immediate forms (40_csr_access.md section 3, R133 to R135). -/

theorem getLsbD_immOperand_of_ge (uimm : BitVec 5) {n : Nat} (above : 5 ≤ n) :
    (immOperand uimm).getLsbD n = false := by
  rw [immOperand, BitVec.getLsbD_setWidth, BitVec.getLsbD_of_ge _ _ above, Bool.and_false]

theorem getLsbD_immOperand_of_lt (uimm : BitVec 5) {n : Nat} (below : n < 5) :
    (immOperand uimm).getLsbD n = uimm.getLsbD n := by
  simp [immOperand, show n < 64 by omega]

theorem sameAboveImm_immOperand (uimm : BitVec 5) : SameAboveImm (immOperand uimm) 0#64 := by
  intro n above
  rw [getLsbD_immOperand_of_ge uimm above, BitVec.getLsbD_zero]

/-- The write of an immediate: every field above bit 4 is written as 0 (R133). -/
theorem State.writeMstatus_immOperand (s : State) (uimm : BitVec 5) :
    s.writeMstatus (immOperand uimm) =
      { mpv := false, gva := false, tsr := false, tw := false, tvm := false, mxr := false, sum := false, mprv := false
        fs := s.wfFs (immOperand uimm), mpp := .U, vs := s.wfVs (immOperand uimm)
        spp := false, mpie := false, spie := false, mie := uimm.getLsbD 3, sie := uimm.getLsbD 1 } := by
  have mpp : mppBits (immOperand uimm) = Priv.U.code := (sameAboveImm_immOperand uimm).extractLsb'_eq (by decide) 2
  simp [State.writeMstatus, State.wfMpp_of_code _ mpp, getLsbD_immOperand_of_ge, getLsbD_immOperand_of_lt,
    -BitVec.getLsbD_eq_getElem]

theorem State.wfFs_immOperand {s : State} (zero : s.cfg.fsLegal.has0 = true) (uimm : BitVec 5) :
    s.wfFs (immOperand uimm) = 0#2 := by
  have fs : fsBits (immOperand uimm) = 0#2 := (sameAboveImm_immOperand uimm).extractLsb'_eq (by decide) 2
  rw [State.wfFs_of_legal (fs.symm ▸ zero), fs]

theorem State.wfVs_immOperand {s : State} (zero : s.cfg.vsLegal.has0 = true) (uimm : BitVec 5) :
    s.wfVs (immOperand uimm) = 0#2 := by
  have vs : vsBits (immOperand uimm) = 0#2 := (sameAboveImm_immOperand uimm).extractLsb'_eq (by decide) 2
  rw [State.wfVs_of_legal (vs.symm ▸ zero), vs]

/-- Settles O19: the access is the write of the immediate, whose fields above bit 4 are 0. -/
theorem csrrwiWritesImmediate : Obligations.CsrrwiWritesImmediate := by
  intro s rd uimm
  refine ⟨fun machine => ⟨_, exec_csrrwi_machine machine rd uimm, s.csrAccess_completed rd _, ?_⟩,
    fun below => exec_csr_below rfl below⟩
  rw [State.csrAccess_mstatus, State.afterWrite, State.writeMstatus_immOperand]
  exact ⟨rfl, rfl, rfl, rfl, rfl, rfl, rfl, rfl, rfl, rfl, rfl, rfl, rfl, rfl,
    fun zero => State.wfFs_immOperand zero uimm, fun zero => State.wfVs_immOperand zero uimm⟩

section
variable {s : State} (fsLegal : legalHas s.cfg.fsLegal s.mstatus.fs = true)
  (vsLegal : legalHas s.cfg.vsLegal s.mstatus.vs = true) (uimm : BitVec 5)
include fsLegal vsLegal

/-- What a set of immediate bits leaves; with `uimm` = 0 there is no write, and the two ORs change nothing. -/
theorem State.afterWrite_setImm : s.afterWrite (setValue uimm s.mstatus.read (immOperand uimm)) =
    { s.mstatus with mie := s.mstatus.mie || uimm.getLsbD 3, sie := s.mstatus.sie || uimm.getLsbD 1 } := by
  have same : SameAboveImm (s.mstatus.read ||| immOperand uimm) s.mstatus.read := fun n above => by
    rw [BitVec.getLsbD_or, getLsbD_immOperand_of_ge uimm above, Bool.or_false]
  rw [State.afterWrite_setValue]
  split
  · next zero => simp [zero]
  · rw [State.writeMstatus_of_sameAboveImm same fsLegal vsLegal]
    simp [Mstatus.getLsbD_read_mie, Mstatus.getLsbD_read_sie, getLsbD_immOperand_of_lt, -BitVec.getLsbD_eq_getElem]

/-- What a clear of immediate bits leaves; with `uimm` = 0 there is no write. -/
theorem State.afterWrite_clearImm : s.afterWrite (clearValue uimm s.mstatus.read (immOperand uimm)) =
    { s.mstatus with mie := s.mstatus.mie && !uimm.getLsbD 3, sie := s.mstatus.sie && !uimm.getLsbD 1 } := by
  have same : SameAboveImm (s.mstatus.read &&& ~~~immOperand uimm) s.mstatus.read := fun n above => by
    by_cases hn : n < 64
    · simp [getLsbD_immOperand_of_ge uimm above, hn, -BitVec.getLsbD_eq_getElem]
    · rw [BitVec.getLsbD_of_ge _ _ (by omega), BitVec.getLsbD_of_ge _ _ (by omega)]
  rw [State.afterWrite_clearValue]
  split
  · next zero => simp [zero]
  · rw [State.writeMstatus_of_sameAboveImm same fsLegal vsLegal]
    simp [Mstatus.getLsbD_read_mie, Mstatus.getLsbD_read_sie, getLsbD_immOperand_of_lt, -BitVec.getLsbD_eq_getElem]

end

/-- Settles O20: the immediate reaches the stored bits MIE and SIE only. -/
theorem csrrsiSetsEnables : Obligations.CsrrsiSetsEnables := by
  intro s rd uimm
  refine ⟨fun machine => ⟨_, exec_csrrsi_machine machine rd uimm, ?_, fun fsLegal vsLegal => ?_⟩,
    fun below => exec_csr_below rfl below⟩
  · exact s.afterWrite_setValue uimm _ _ ▸ s.csrAccess_completed rd _
  · exact (s.csrAccess_mstatus rd _).trans (State.afterWrite_setImm fsLegal vsLegal uimm)

/-- Settles O21: as O20, clearing. -/
theorem csrrciClearsEnables : Obligations.CsrrciClearsEnables := by
  intro s rd uimm
  refine ⟨fun machine => ⟨_, exec_csrrci_machine machine rd uimm, ?_, fun fsLegal vsLegal => ?_⟩,
    fun below => exec_csr_below rfl below⟩
  · exact s.afterWrite_clearValue uimm _ _ ▸ s.csrAccess_completed rd _
  · exact (s.csrAccess_mstatus rd _).trans (State.afterWrite_clearImm fsLegal vsLegal uimm)

end Sys2Proof.Machine
end

section
namespace Sys2Proof.Machine

/-! The write functions field by field, and the register forms (40_csr_access.md R125 to R132). -/

theorem State.mIntGloballyEnabled_machine {s : State} (machine : s.priv = .M) :
    s.mIntGloballyEnabled = s.mstatus.mie := by
  simp [State.mIntGloballyEnabled, machine]

/-- Below M-mode only HS-mode reads SIE (60_exceptions.md R191). -/
theorem State.sIntGloballyEnabled_below {s : State} (below : s.priv ≠ .M) :
    s.sIntGloballyEnabled = (s.priv == .U || s.v || s.mstatus.sie) := by
  cases hp : s.priv with
  | M => exact absurd hp below
  | S | U =>
    rw [State.sIntGloballyEnabled, hp]
    cases s.v <;> cases s.mstatus.sie <;> rfl

/-- Settles O10: the plain fields are stored by definition, and the enables are read from the fields stored. -/
theorem writeStoresPlainFields : Obligations.WriteStoresPlainFields := by
  intro s w
  refine ⟨rfl, rfl, rfl, rfl, rfl, rfl, rfl, rfl, rfl, rfl, rfl, rfl, rfl, fun rd rs1 machine => ?_⟩
  obtain ⟨em, _, _, epriv, _⟩ := s.csrAccess_completed rd (some (s.readX rs1))
  refine ⟨_, exec_csrrw_machine machine rd rs1, em, epriv, ?_, fun v p below => ?_⟩
  · rw [State.mIntGloballyEnabled_machine (epriv.trans machine), em]
    rfl
  · rw [State.sIntGloballyEnabled_below below, em]
    rfl

/-- Settles O11: the two branches of the write functions, both legal, and SD computed from what they store. -/
theorem writeOfFsAndVs : Obligations.WriteOfFsAndVs := fun s w =>
  ⟨State.wfFs_of_legal, State.wfFs_of_illegal, s.wfFs_legal w, State.wfVs_of_legal, State.wfVs_of_illegal,
    s.wfVs_legal w, Mstatus.getLsbD_read_sd _⟩

/-- Settles O12: each code of a level is stored as that level, and the code 2 as `UL_MPP`. -/
theorem writeOfMpp : Obligations.WriteOfMpp := by
  intro s w
  refine ⟨State.wfMpp_of_code .U, State.wfMpp_of_code .S, State.wfMpp_of_code .M, State.wfMpp_of_two,
    fun rd rs1 machine => ?_⟩
  exact ⟨_, exec_csrrw_machine machine rd rs1, congrArg Mstatus.mpp (s.csrAccess_mstatus rd _), s.csrAccess_priv rd _⟩

/-- Settles O16: `x[rs1]` is read in the state before, and written whatever `rs1` is. -/
theorem csrrwWritesAndSwaps : Obligations.CsrrwWritesAndSwaps := fun s rd rs1 =>
  ⟨s.readX_zero,
    fun machine => ⟨_, exec_csrrw_machine machine rd rs1, s.csrAccess_completed rd (some (s.readX rs1))⟩,
    fun below => exec_csr_below rfl below⟩

/-- Settles O17: the set form tests the register number. -/
theorem csrrsSetsBits : Obligations.CsrrsSetsBits := fun s rd rs1 =>
  ⟨fun machine => ⟨_, exec_csrrs_machine machine rd rs1,
      s.afterWrite_setValue rs1 _ _ ▸ s.csrAccess_completed rd _⟩,
    fun below => exec_csr_below rfl below⟩

/-- Settles O18: the clear form tests the register number. -/
theorem csrrcClearsBits : Obligations.CsrrcClearsBits := fun s rd rs1 =>
  ⟨fun machine => ⟨_, exec_csrrc_machine machine rd rs1,
      s.afterWrite_clearValue rs1 _ _ ▸ s.csrAccess_completed rd _⟩,
    fun below => exec_csr_below rfl below⟩

end Sys2Proof.Machine
end

section
namespace Sys2Proof.Machine

/-! The meanings of `mret` and `sret` by mode: a return, a trap, or a refusal (41_trap_return.md R150 to R155). -/

section
variable {s : State}

theorem exec_mret_machine (machine : s.priv = .M) : exec .mret s = .next s.returnM := by
  simp [exec, execMret, machine]

theorem exec_mret_below (below : s.priv ≠ .M) : exec .mret s = .next (s.raise .illegalInstruction) := by
  simp [exec, execMret, below]

/-- In M-mode neither `V` nor TSR matters (R152). -/
theorem exec_sret_returns (allowed : s.priv = .M ∨ (s.priv = .S ∧ s.v = false ∧ s.mstatus.tsr = false)) :
    exec .sret s = .next s.returnS := by
  rcases allowed with machine | ⟨supervisor, host, tsr⟩
  · simp [exec, execSret, machine]
  · simp [exec, execSret, supervisor, host, tsr]

/-- In U-mode TSR does not matter (R153). -/
theorem exec_sret_traps
    (forbidden : (s.priv = .S ∧ s.v = false ∧ s.mstatus.tsr = true) ∨ (s.priv = .U ∧ s.v = false)) :
    exec .sret s = .next (s.raise .illegalInstruction) := by
  rcases forbidden with ⟨supervisor, host, tsr⟩ | ⟨user, host⟩
  · simp [exec, execSret, supervisor, host, tsr]
  · simp [exec, execSret, user, host]

theorem exec_sret_guest (below : s.priv ≠ .M) (guest : s.v = true) : exec .sret s = .refused .sretVirtual := by
  cases priv : s.priv with
  | M => exact absurd priv below
  | S | U => simp [exec, execSret, priv, guest]

end

/-- No trap entry writes MPRV, whatever mode it goes to (60_exceptions.md R200). -/
@[simp] theorem State.enter_mprv (s : State) (m : TrapMode) (c : Cause) :
    (s.enter m c).mstatus.mprv = s.mstatus.mprv := by
  cases m with
  | M | HS | VS => rfl

/-- What raises leaves MPRV, since its one trap entry does (R155). -/
@[simp] theorem State.raise_mprv (s : State) (e : Exc) : (s.raise e).mstatus.mprv = s.mstatus.mprv :=
  s.enter_mprv _ _

/-- Settles O28: each of the two either returns, which clears MPRV, or raises, which leaves it. -/
theorem returnsClearMprv : Obligations.ReturnsClearMprv := fun s =>
  ⟨fun machine => ⟨_, exec_mret_machine machine, rfl⟩,
    fun allowed => ⟨_, exec_sret_returns allowed, rfl⟩,
    fun below => ⟨_, exec_mret_below below, s.raise_mprv _⟩,
    fun forbidden => ⟨_, exec_sret_traps forbidden, s.raise_mprv _⟩⟩

/-- Settles O26: in both modes the meaning is the one trap entry of Illegal Instruction (R195). -/
theorem sretTraps : Obligations.SretTraps := fun s forbidden =>
  ⟨_, exec_sret_traps forbidden, s.raise_exceptionTaken _⟩

/-- Settles O27: below M-mode `V` = 1 is tested before TSR. -/
theorem sretInGuestRefused : Obligations.SretInGuestRefused := fun _ => exec_sret_guest

end Sys2Proof.Machine
end

section
namespace Sys2Proof.Machine

/-! The table of `wfi` and its meaning in each row (42_wfi_and_gated_instructions.md R165, R166). -/

section
variable {p : Priv} {v tw : Bool}

theorem wfiRule_eq_mayWaitForever (row : p = .M ∨ (p = .S ∧ v = false ∧ tw = false)) :
    wfiRule p v tw = .mayWaitForever := by
  rcases row with rfl | ⟨rfl, rfl, rfl⟩ <;> rfl

/-- In U-mode with `V` = 0 TW does not matter. -/
theorem wfiRule_eq_mustTrapAfterPeriod (row : (p ≠ .M ∧ tw = true) ∨ (p = .U ∧ v = false)) :
    wfiRule p v tw = .mustTrapAfterPeriod := by
  rcases row with ⟨below, rfl⟩ | ⟨rfl, rfl⟩
  · cases p with
    | M => exact absurd rfl below
    | S | U => cases v <;> rfl
  · rfl

theorem wfiRule_eq_outOfScope (below : p ≠ .M) (guest : v = true) (free : tw = false) :
    wfiRule p v tw = .outOfScope := by
  subst guest free
  cases p with
  | M => exact absurd rfl below
  | S | U => rfl

end

section
variable {s : State}

theorem exec_wfi_mayWaitForever (row : s.priv = .M ∨ (s.priv = .S ∧ s.v = false ∧ s.mstatus.tw = false)) :
    exec .wfi s = .next (if s.input.wfiWaits then s.wfiWait else s.wfiComplete) := by
  simp only [exec, execWfi, wfiRule_eq_mayWaitForever row]

theorem exec_wfi_mustTrapAfterPeriod
    (row : (s.priv ≠ .M ∧ s.mstatus.tw = true) ∨ (s.priv = .U ∧ s.v = false)) :
    exec .wfi s = .next (if s.input.wfiTimedOut then s.raise .illegalInstruction else s.wfiComplete) := by
  simp only [exec, execWfi, wfiRule_eq_mustTrapAfterPeriod row]

theorem exec_wfi_outOfScope (below : s.priv ≠ .M) (guest : s.v = true) (free : s.mstatus.tw = false) :
    exec .wfi s = .refused .wfiVirtual := by
  simp only [exec, execWfi, wfiRule_eq_outOfScope below guest free]

end

/-- Settles O30: every such mode is in a row of the table that must trap. -/
theorem wfiTrapsAfterPeriod : Obligations.WfiTrapsAfterPeriod := fun s elapsed row =>
  ⟨_, exec_wfi_mustTrapAfterPeriod row, if_pos elapsed ▸ s.raise_exceptionTaken _⟩

/-- Settles O31: in both modes the meaning is the update that counts one more step of the wait. -/
theorem wfiMayKeepWaiting : Obligations.WfiMayKeepWaiting := by
  intro s waits row
  have meaning := exec_wfi_mayWaitForever row
  rw [if_pos waits] at meaning
  exact ⟨_, meaning, rfl, rfl, rfl, rfl, rfl, rfl, fun _ => rfl, fun _ => rfl, rfl, rfl, rfl⟩

/-- Settles O32: the two rows of the table with `V` = 1 and TW = 0. -/
theorem wfiInGuestRefused : Obligations.WfiInGuestRefused := fun _ => exec_wfi_outOfScope

/-! The gates of a host-core instruction (42_wfi_and_gated_instructions.md R168 to R172). -/

theorem UnitUse.gated_eq_true {u : UnitUse} {enabled : Bool} :
    u.gated enabled = true ↔ u ≠ .notUsed ∧ enabled = false := by
  cases u <;> simp [UnitUse.gated]

/-- A unit is used whose status is Off (R169, R170). -/
def State.UnitOff (s : State) (h : HostInstr) : Prop :=
  (h.fp ≠ .notUsed ∧ s.mstatus.fs = 0#2) ∨ (h.vec ≠ .notUsed ∧ s.mstatus.vs = 0#2)

theorem State.tvmTraps_eq_true {s : State} {op : VmOp} :
    s.tvmTraps op = true ↔ s.mstatus.tvm = true ∧ s.mode ∈ s.cfg.tvmModes ∧ op ∈ s.cfg.tvmTrappedOps := by
  simp [State.tvmTraps, and_assoc]

theorem State.gateRefuses_eq_true {s : State} {h : HostInstr} :
    s.gateRefuses h = true ↔ s.UnitOff h ∨ ∃ op, h.vmOp = some op ∧ s.tvmTraps op = true := by
  have fp : h.fp.gated s.mstatus.fpEnabled = true ↔ h.fp ≠ .notUsed ∧ s.mstatus.fs = 0#2 := by
    simp [UnitUse.gated_eq_true, Mstatus.fpEnabled]
  have vec : h.vec.gated s.mstatus.vecEnabled = true ↔ h.vec ≠ .notUsed ∧ s.mstatus.vs = 0#2 := by
    simp [UnitUse.gated_eq_true, Mstatus.vecEnabled]
  cases op : h.vmOp <;> simp [State.gateRefuses, State.UnitOff, fp, vec, op]

/-- Nothing is raised exactly when no gate refuses the instruction and its load passes the page checks. -/
theorem State.hostFault_eq_none {s : State} {h : HostInstr} :
    s.hostFault h = none ↔ s.gateRefuses h = false ∧ ∀ p, h.load = some p → s.loadFault p = none := by
  cases gate : s.gateRefuses h <;> cases load : h.load <;> simp [State.hostFault, gate, load]

/-- A gate refuses before the page checks are made, so whatever the instruction does (R195). -/
theorem step_of_gateRefuses {s : State} {h : HostInstr} (event : s.input.event = some (.hostInstr h))
    (noInterrupt : s.interruptEntry = none) (gate : s.gateRefuses h = true) :
    ∃ t : State, step s = .next t.nextInput ∧ IllegalTaken s t :=
  step_of_hostFault_some event noInterrupt (by simp [State.hostFault, gate])

/-- Settles O46: the instruction completes, and a unit whose state it wrote was on, since no gate refused it. -/
theorem unitWriteDirties : Obligations.UnitWriteDirties := by
  intro s h event noInterrupt noFault
  obtain ⟨t, hstep, completed⟩ := step_of_hostFault_none event noInterrupt noFault
  obtain ⟨gate, _⟩ := State.hostFault_eq_none.1 noFault
  have unitsOn : ¬ s.UnitOff h := fun off =>
    Bool.eq_false_iff.1 gate (State.gateRefuses_eq_true.2 (.inl off))
  have ⟨mstatus, _⟩ := completed
  refine ⟨t, hstep, completed, fun written => ?_, fun fp off => ?_, fun vec off => ?_⟩
  · rw [Mstatus.getLsbD_read_sd, mstatus]
    rcases written with fp | vec
    · simp [fp]
    · simp [vec]
  · exact unitsOn (.inl ⟨by simp [fp], off⟩)
  · exact unitsOn (.inr ⟨by simp [vec], off⟩)

/-- Settles O45: the gate of the unit refuses the instruction. -/
theorem unitOffTraps : Obligations.UnitOffTraps := fun _ _ event noInterrupt off =>
  step_of_gateRefuses event noInterrupt (State.gateRefuses_eq_true.2 (.inl off))

/-- Settles O47: the TVM gate is the conjunction of the three conditions, and where it and all else passes nothing is
raised. -/
theorem tvmTrapsItsOperations : Obligations.TvmTrapsItsOperations := by
  intro s h op event noInterrupt hop
  refine ⟨fun tvm mode trapped => ?_, fun outside fpOn vecOn pages => ?_⟩
  · exact step_of_gateRefuses event noInterrupt
      (State.gateRefuses_eq_true.2 (.inr ⟨op, hop, State.tvmTraps_eq_true.2 ⟨tvm, mode, trapped⟩⟩))
  · have tvmPasses : ¬ s.tvmTraps op = true := by
      rw [State.tvmTraps_eq_true]
      rintro ⟨tvm, mode, trapped⟩
      rcases outside with off | other | untrapped
      · simp [off] at tvm
      · exact other mode
      · exact untrapped trapped
    have gate : s.gateRefuses h = false := by
      rw [← Bool.not_eq_true, State.gateRefuses_eq_true]
      rintro ((⟨used, off⟩ | ⟨used, off⟩) | ⟨op', hop', traps⟩)
      · exact fpOn used off
      · exact vecOn used off
      · obtain rfl : op = op' := Option.some.inj (hop.symm.trans hop')
        exact tvmPasses traps
    exact step_of_hostFault_none event noInterrupt (State.hostFault_eq_none.2 ⟨gate, pages⟩)

end Sys2Proof.Machine
end

section
namespace Sys2Proof.Machine

/-! The order of the privilege levels, which no step but a return goes down (60_exceptions.md R185, R194). -/

theorem Priv.code_le_M (p : Priv) : p.code.toNat ≤ Priv.M.code.toNat := by cases p <;> decide

theorem Priv.code_le_S {p : Priv} (below : p ≠ .M) : p.code.toNat ≤ Priv.S.code.toNat := by
  cases p with
  | M => exact absurd rfl below
  | S | U => decide

/-- M-mode is the highest level, and the two other targets, which are at S, are not allowed from it. -/
theorem TrapTaken.priv_le {s t : State} {m : TrapMode} {c : Cause} (taken : TrapTaken s t m c)
    (allowed : s.trapModeAllowed m = true) : s.priv.code.toNat ≤ t.priv.code.toNat := by
  obtain ⟨entered, _⟩ := taken
  cases m with
  | M =>
    obtain ⟨_, machine, _⟩ := entered
    exact machine ▸ s.priv.code_le_M
  | HS | VS =>
    obtain ⟨_, supervisor, _⟩ := entered
    exact supervisor ▸ Priv.code_le_S (State.below_of_trapModeAllowed allowed nofun)

theorem State.raise_priv_le (s : State) (e : Exc) : s.priv.code.toNat ≤ (s.raise e).priv.code.toNat :=
  (s.enter_trapTaken _ _).priv_le s.trapMode_allowed

theorem State.hostMove_priv_le {s t : State} (h : s.hostMove = some t) : s.priv.code.toNat ≤ t.priv.code.toNat := by
  rcases State.hostMove_cases h with ⟨_, _, rfl⟩ | ⟨m, c, allowed, rfl⟩ | ⟨hi, _, _, rfl⟩
  · exact s.priv.code_le_M
  · exact (s.enter_trapTaken m c).priv_le allowed
  · obtain ⟨_, _, same, _⟩ := s.hostComplete_completed hi
    rw [same]

section
variable {s t : State}

/-- A CSR instruction completes in the mode it runs in, or raises. -/
theorem exec_csr_priv_le {i : Instr} {csr : CsrAddr} (names : i.csr? = some csr) (h : exec i s = .next t) :
    s.priv.code.toNat ≤ t.priv.code.toNat := by
  obtain ⟨rd, w, meaning⟩ := exec_csrAccess names s
  rw [meaning] at h
  by_cases scope : csr = mstatusAddr
  · subst scope
    by_cases machine : s.priv = .M
    · obtain rfl := Host.Outcome.next.inj ((csrInstr_machine machine _).symm.trans h)
      rw [State.csrAccess_priv]
    · obtain rfl := Host.Outcome.next.inj ((csrInstr_below machine _).symm.trans h)
      exact s.raise_priv_le _
  · rw [csrInstr_other scope] at h
    cases h

/-- `wfi` waits or completes in the mode it runs in, or raises. -/
theorem exec_wfi_priv_le (h : exec .wfi s = .next t) : s.priv.code.toNat ≤ t.priv.code.toNat := by
  simp only [exec, execWfi] at h
  split at h
  · obtain rfl := Host.Outcome.next.inj h
    split <;> exact Nat.le_refl _
  · obtain rfl := Host.Outcome.next.inj h
    split
    · exact s.raise_priv_le _
    · exact Nat.le_refl _
  · cases h

theorem exec_mret_cases (h : exec .mret s = .next t) :
    (s.priv = .M ∧ t = s.returnM) ∨ t = s.raise .illegalInstruction := by
  by_cases machine : s.priv = .M
  · exact .inl ⟨machine, Host.Outcome.next.inj (h.symm.trans (exec_mret_machine machine))⟩
  · exact .inr (Host.Outcome.next.inj (h.symm.trans (exec_mret_below machine)))

theorem exec_sret_cases (h : exec .sret s = .next t) :
    ((s.priv = .M ∨ (s.priv = .S ∧ s.v = false ∧ s.mstatus.tsr = false)) ∧ t = s.returnS) ∨
      t = s.raise .illegalInstruction := by
  by_cases allowed : s.priv = .M ∨ (s.priv = .S ∧ s.v = false ∧ s.mstatus.tsr = false)
  · exact .inl ⟨allowed, Host.Outcome.next.inj (h.symm.trans (exec_sret_returns allowed))⟩
  · have below : s.priv ≠ .M := fun machine => allowed (.inl machine)
    cases guest : s.v with
    | true =>
      rw [exec_sret_guest below guest] at h
      cases h
    | false =>
      have forbidden : (s.priv = .S ∧ s.v = false ∧ s.mstatus.tsr = true) ∨ (s.priv = .U ∧ s.v = false) := by
        cases priv : s.priv with
        | M => exact absurd priv below
        | S => exact .inl ⟨rfl, guest, by simpa [priv, guest] using allowed⟩
        | U => exact .inr ⟨rfl, guest⟩
      exact .inr (Host.Outcome.next.inj (h.symm.trans (exec_sret_traps forbidden)))

/-- Only the two returns lower the privilege level, in the modes they complete in (R150, R152). -/
theorem exec_lowers {i : Instr} (h : exec i s = .next t) (lower : t.priv.code.toNat < s.priv.code.toNat) :
    (i = .mret ∧ s.priv = .M ∧ t = s.returnM) ∨
    (i = .sret ∧ (s.priv = .M ∨ (s.priv = .S ∧ s.v = false ∧ s.mstatus.tsr = false)) ∧ t = s.returnS) := by
  have lowered : ¬ s.priv.code.toNat ≤ t.priv.code.toNat := Nat.not_le.2 lower
  cases i with
  | csrrw | csrrs | csrrc | csrrwi | csrrsi | csrrci => exact absurd (exec_csr_priv_le rfl h) lowered
  | mret =>
    rcases exec_mret_cases h with returned | rfl
    · exact .inl ⟨rfl, returned⟩
    · exact absurd (s.raise_priv_le _) lowered
  | sret =>
    rcases exec_sret_cases h with returned | rfl
    · exact .inr ⟨rfl, returned⟩
    · exact absurd (s.raise_priv_le _) lowered
  | wfi => exact absurd (exec_wfi_priv_le h) lowered

end

/-- Settles O36: a step that lowers the level is no host-core move, so it is an instruction, and one of the two returns. -/
theorem trapNeverLowersPrivilege : Obligations.TrapNeverLowersPrivilege := by
  refine ⟨fun s t m c allowed taken => taken.priv_le allowed, fun s t h lower => ?_⟩
  rcases step_cases h with ⟨u, moved, rfl⟩ | ⟨noMove, i, u, fetched, meaning, rfl⟩
  · exact absurd (State.hostMove_priv_le moved) (Nat.not_le.2 lower)
  · rcases exec_lowers meaning lower with ⟨rfl, machine, rfl⟩ | ⟨rfl, allowed, rfl⟩
    · exact ⟨noMove, rfl, .inl ⟨fetched, machine⟩⟩
    · exact ⟨noMove, rfl, .inr ⟨fetched, allowed⟩⟩

end Sys2Proof.Machine
end

section
namespace Sys2Proof.Machine

/-! A return straight after a trap entry (60_exceptions.md R202). -/

/-- Settles O40: `mret` runs in M-mode and reads the record of the entry. V is given back since in a state of the
invariant it is 0 in M-mode, where `mret` makes it 0. -/
theorem mretUndoesTrapEntry : Obligations.MretUndoesTrapEntry := by
  rintro s c ⟨machineHost, _⟩
  have v : (s.enterM c).returnM.v = s.v := by
    cases priv : s.priv with
    | M => simp [priv, machineHost priv]
    | S | U => simp [priv]
  exact ⟨_, exec_mret_machine rfl, rfl, v, rfl, rfl, rfl, fun _ => rfl, fun _ => rfl, rfl, rfl, rfl⟩

/-- Below M-mode SPP tells the two levels apart. -/
theorem Priv.ofSpp_beq_S {p : Priv} (below : p ≠ .M) : Priv.ofSpp (p == .S) = p := by
  cases p with
  | M => exact absurd rfl below
  | S | U => rfl

/-- Settles O41: `sret` runs in HS-mode, where TSR = 0 lets it complete, and reads the record of the entry. -/
theorem sretUndoesTrapEntry : Obligations.SretUndoesTrapEntry := fun _ _ below tsr =>
  ⟨_, exec_sret_returns (.inr ⟨rfl, rfl, tsr⟩), Priv.ofSpp_beq_S below, rfl, rfl, rfl, rfl, fun _ => rfl, fun _ => rfl,
    rfl, rfl, rfl⟩

/-- Settles O39: the second entry records the mode and the MIE the first one left. -/
theorem secondTrapOverwritesRecord : Obligations.SecondTrapOverwritesRecord := fun _ _ _ => ⟨rfl, rfl, rfl, rfl, rfl⟩

end Sys2Proof.Machine
end

section
namespace Sys2Proof.Machine

/-! A step in which the host core raises an exception or an interrupt is taken (60_exceptions.md R192, R195, R201). -/

section
variable {s : State}

theorem State.trap_of_allowed {m : TrapMode} (target : s.input.trapMode = m) (allowed : s.trapModeAllowed m = true)
    (c : Cause) : s.trap c = s.enter m c := by
  subst target
  simp [State.trap, State.trapMode, allowed]

/-- With no interrupt to take, the step is the trap entry of the exception reported. -/
theorem step_of_exception {e : Option Exc} {byAccess : Bool} (event : s.input.event = some (.exception e byAccess))
    (noInterrupt : s.interruptEntry = none) {m : TrapMode} (target : s.input.trapMode = m)
    (allowed : s.trapModeAllowed m = true) :
    ∃ t : State, step s = .next t.nextInput ∧ TrapTaken s t m (.exception e byAccess) := by
  refine ⟨_, ?_, s.enter_trapTaken m _⟩
  simp [step, State.hostMove, event, noInterrupt, State.trap_of_allowed target allowed]

/-- An interrupt that is ready and enabled is taken whatever event but a reset is reported. -/
theorem step_of_interruptEntry (noReset : ¬ s.resets) {u : State} (entry : s.interruptEntry = some u) :
    step s = .next u.nextInput := by
  have moved : s.hostMove = some u := by
    cases event : s.input.event with
    | none => simp [State.hostMove, event, entry]
    | some e =>
      cases e with
      | reset d => exact absurd ⟨d, event⟩ noReset
      | hostInstr | exception | vsInterrupt => simp [State.hostMove, event, entry]
  simp [step, moved]

theorem step_of_mInterrupt (noReset : ¬ s.resets) (ready : s.input.mIntReady = true)
    (enabled : s.mIntGloballyEnabled = true) :
    ∃ t : State, step s = .next t.nextInput ∧ TrapTaken s t .M .interrupt :=
  ⟨_, step_of_interruptEntry noReset (by simp [State.interruptEntry, ready, enabled, State.enter]), s.enter_trapTaken .M _⟩

theorem step_of_sInterrupt (noReset : ¬ s.resets) (noMachine : s.input.mIntReady = false)
    (ready : s.input.sIntReady = true) (enabled : s.sIntGloballyEnabled = true) :
    ∃ t : State, step s = .next t.nextInput ∧ TrapTaken s t .HS .interrupt :=
  ⟨_, step_of_interruptEntry noReset (by simp [State.interruptEntry, noMachine, ready, enabled, State.enter]),
    s.enter_trapTaken .HS _⟩

/-- An interrupt into VS-mode is taken where R194 allows it and no other interrupt comes before it. -/
theorem step_of_vsInterrupt (event : s.input.event = some .vsInterrupt) (noInterrupt : s.interruptEntry = none)
    (allowed : s.trapModeAllowed .VS = true) :
    ∃ t : State, step s = .next t.nextInput ∧ TrapTaken s t .VS .interrupt := by
  refine ⟨_, ?_, s.enter_trapTaken .VS _⟩
  simp [step, State.hostMove, event, noInterrupt, State.vsInterruptEntry, allowed, State.enter]

end

/-- Settles O33: target M-mode is allowed from every mode, and the step is a trap entry into it. -/
theorem trapEntryIntoMachineMode : Obligations.TrapEntryIntoMachineMode := by
  intro s c how
  have entry : ∃ t : State, step s = .next t.nextInput ∧ TrapTaken s t .M c := by
    rcases how with ⟨⟨e, byAccess, event, rfl⟩, noInterrupt, target⟩ | ⟨noReset, ready, enabled, rfl⟩
    · exact step_of_exception event noInterrupt target rfl
    · exact step_of_mInterrupt noReset ready enabled
  obtain ⟨t, hstep, ⟨mstatus, priv, v⟩, pc, _, _, registers, surroundings⟩ := entry
  exact ⟨t, hstep, mstatus, priv, v, pc, registers, surroundings⟩

/-- Settles O34: target HS-mode is allowed below M-mode, and the step is a trap entry into it. -/
theorem trapEntryIntoSupervisorMode : Obligations.TrapEntryIntoSupervisorMode := by
  intro s how
  have entry : ∃ c, ∃ t : State, step s = .next t.nextInput ∧ TrapTaken s t .HS c := by
    rcases how with ⟨⟨e, byAccess, event⟩, noInterrupt, target, below⟩ | ⟨noReset, noMachine, ready, enabled⟩
    · exact ⟨_, step_of_exception event noInterrupt target (bne_iff_ne.2 below)⟩
    · exact ⟨_, step_of_sInterrupt noReset noMachine ready enabled⟩
  obtain ⟨_, t, hstep, ⟨mstatus, priv, v⟩, pc, _, _, registers, surroundings⟩ := entry
  exact ⟨t, hstep, mstatus, priv, v, pc, registers, surroundings⟩

/-- Settles O35: target VS-mode is allowed below M-mode with `V` = 1, and the step is a trap entry into it. -/
theorem trapEntryIntoGuestKeepsMstatus : Obligations.TrapEntryIntoGuestKeepsMstatus := by
  intro s how noInterrupt below guest
  have allowed : s.trapModeAllowed .VS = true := by simp [State.trapModeAllowed, guest, below]
  have entry : ∃ c, ∃ t : State, step s = .next t.nextInput ∧ TrapTaken s t .VS c := by
    rcases how with ⟨⟨e, byAccess, event⟩, target⟩ | event
    · exact ⟨_, step_of_exception event noInterrupt target allowed⟩
    · exact ⟨_, step_of_vsInterrupt event noInterrupt allowed⟩
  obtain ⟨_, t, hstep, ⟨mstatus, priv, v⟩, pc, _, _, registers, surroundings⟩ := entry
  exact ⟨t, hstep, mstatus, priv, v, pc, registers, surroundings⟩

end Sys2Proof.Machine
end

section
namespace Sys2Proof.Machine

/-! What GVA takes, and what no trap entry writes (60_exceptions.md R197, R200). -/

/-- With `V` = 0, loads and stores are made as `V` = 1 only through MPRV (20_memory.md R84). -/
theorem State.effLdSt_v_of_host {s : State} (host : s.v = false) :
    s.effLdSt.v = true ↔ s.mstatus.mprv = true ∧ s.mstatus.mpv = true ∧ s.mstatus.mpp ≠ .M := by
  cases mprv : s.mstatus.mprv with
  | false => simp [State.effLdSt_of_not_mprv mprv, State.mode, host]
  | true =>
    by_cases mpp : s.mstatus.mpp = .M
    · simp [State.effLdSt_of_mprv_mpp_M mprv mpp, mpp]
    · simp [State.effLdSt_of_mprv_mpp_ne_M mprv mpp, mpp]

theorem State.gvaWritten_eq_true {s : State} {c : Cause} :
    s.gvaWritten c = true ↔ s.input.gvaWritten = true ∧ (s.v = true ∨
      (c.madeAccess = true ∧ s.mstatus.mprv = true ∧ s.mstatus.mpv = true ∧ s.mstatus.mpp ≠ .M)) := by
  cases host : s.v with
  | true => simp [State.gvaWritten, host]
  | false => simp [State.gvaWritten, host, State.effLdSt_v_of_host host]

theorem Cause.madeAccess_eq_true {c : Cause} :
    c.madeAccess = true ↔
      (∃ a, c = .exception (some (.pageFault .load)) a) ∨ (∃ a, c = .exception (some (.pageFault .store)) a) ∨
      c = .exception (some .illegalInstruction) true ∨ c = .exception none true := by
  cases c with
  | interrupt => simp [Cause.madeAccess]
  | exception e byAccess =>
    rcases e with _ | _ | ⟨_ | _ | _⟩ <;> simp [Cause.madeAccess]

/-- Settles O37: GVA takes `gva_written`, which is the input held to its constraint (R197). -/
theorem gvaNeedsGuestAddress : Obligations.GvaNeedsGuestAddress := fun _ _ =>
  ⟨State.gvaWritten_eq_true, Cause.madeAccess_eq_true⟩

/-- A trap from M-mode leaves MPP at M, so that MPRV makes no difference. -/
theorem State.effLdSt_enterM {s : State} (machine : s.priv = .M) (c : Cause) : (s.enterM c).effLdSt = ⟨false, .M⟩ := by
  cases mprv : (s.enterM c).mstatus.mprv with
  | false => exact State.effLdSt_of_not_mprv mprv
  | true => exact State.effLdSt_of_mprv_mpp_M mprv machine

/-- Settles O38: of `mstatus` each of the three entries writes only the fields of its own trap record. -/
theorem trapEntryLeavesControls : Obligations.TrapEntryLeavesControls := by
  intro s m c
  cases m with
  | M => exact ⟨rfl, rfl, rfl, rfl, rfl, rfl, rfl, rfl, fun _ machine => State.effLdSt_enterM machine c⟩
  | HS | VS => exact ⟨rfl, rfl, rfl, rfl, rfl, rfl, rfl, rfl, nofun⟩

end Sys2Proof.Machine
end

section
namespace Sys2Proof.Machine

/-! The reset event and the word read after it (70_reset_and_hazards.md R220 to R222; 10_state.md R69). -/

/-- A reset comes before everything else a step can do (R220). -/
theorem step_of_reset {s : State} {d : ResetDraw} (event : s.input.event = some (.reset d)) :
    step s = .next (s.resetBy d).nextInput := by
  simp [step, State.hostMove, event]

/-- The first mask of R69: the fields a reset clears, which read 0, and the constant fields SXL and UXL, which read 1. -/
theorem Mstatus.read_and_resetFixedMask {cfg : Config.Params} {m : Mstatus} (fixed : m.isReset cfg) :
    m.read &&& 0x0000004F00020008#64 = 0x0000000500000000#64 := by
  obtain ⟨gva, mprv, mie, _, _⟩ := fixed
  apply BitVec.eq_of_getLsbD_eq
  intro n hn
  rw [BitVec.and_comm, BitVec.getLsbD_and, Mstatus.getLsbD_read, gva, mprv, mie]
  interval_cases n <;> rfl

/-- The second mask of R69: the bits without storage, but for SXL and UXL. -/
theorem Mstatus.read_and_resetZeroMask (m : Mstatus) : m.read &&& 0x7FFFFF30FF818055#64 = 0#64 :=
  calc m.read &&& 0x7FFFFF30FF818055#64
    _ = m.read &&& 0x7FFFFF3FFF818055#64 &&& 0x7FFFFF30FF818055#64 := by rw [BitVec.and_assoc]; rfl
    _ = 0#64 := by rw [Mstatus.read_and_ignoredMask]; rfl

/-- Drawing a value of the reset table gives that value (R221). -/
theorem resetMstatus_of_isReset {cfg : Config.Params} {m : Mstatus} (allowed : m.isReset cfg) :
    resetMstatus cfg m = m := by
  cases m
  obtain ⟨rfl, rfl, rfl, fs, vs⟩ := allowed
  rw [resetMstatus, holdLegal_of_legal fs, holdLegal_of_legal vs]

/-- Settles O58: the step is the reset whatever else is reported, and a value of the reset table is its own draw. -/
theorem resetEventGivesResetState : Obligations.ResetEventGivesResetState := by
  refine ⟨fun s d event => ?_, fun cfg m allowed => ?_⟩
  · have inTable := resetMstatus_isReset s.cfg d.mstatus
    exact ⟨s.resetBy d, step_of_reset event, rfl, inTable, rfl, holdLegal_of_legal, holdLegal_of_legal,
      rfl, rfl, rfl, rfl, Mstatus.read_and_resetFixedMask inTable, Mstatus.read_and_resetZeroMask _,
      fun _ => rfl, rfl, rfl, rfl⟩
  · exact ⟨m, resetMstatus_of_isReset allowed⟩

end Sys2Proof.Machine
end

section
namespace Sys2Proof

/-! The round trips of the encoding, and the words written out in the spec (30_encoding.md sections 1 to 3 and 6). -/

/-- The first four bytes are decoded as a little-endian word, and the others are left (20_memory.md R82). -/
theorem decode_cons_four (b0 b1 b2 b3 : Byte) (rest : List Byte) :
    decode (b0 :: b1 :: b2 :: b3 :: rest) = (decodeWord (wordOfBytes b0 b1 b2 b3)).map fun i => (i, rest) := by
  simp only [decode]
  cases decodeWord (wordOfBytes b0 b1 b2 b3) <;> rfl

theorem decode_bytesOfWord_append (w : InstrWord) (rest : List Byte) :
    decode (bytesOfWord w ++ rest) = (decodeWord w).map fun i => (i, rest) := by
  rw [← congrArg decodeWord (Machine.wordOfBytes_bytes w)]
  exact decode_cons_four _ _ _ _ rest

/-- Settles O2: the four bytes of a word are put together to the word, and the word of an instruction decodes to it. -/
theorem decodeOfEncodeIsTheInstruction : Obligations.DecodeOfEncodeIsTheInstruction := by
  intro i rest
  rw [encode, decode_bytesOfWord_append, decodeWord_encodeWord]
  rfl

/-- Settles O3: a word with the SYSTEM opcode is put together again from its fields, and the other words that decode
are the three fixed ones. -/
theorem encodeOfDecodeIsTheWord : Obligations.EncodeOfDecodeIsTheWord := fun _ _ => encodeWord_of_decodeWord

/-- Settles O1: each of the nine words has its bytes written out, so `decode` computes its fields. -/
theorem workedEncodingsDecode : Obligations.WorkedEncodingsDecode :=
  ⟨rfl, rfl, rfl, rfl, rfl, rfl, rfl, rfl, rfl⟩

end Sys2Proof
end

section
namespace Sys2Proof.Machine

/-! The fetch and the step that runs what it gives (20_memory.md section 2; 70_reset_and_hazards.md R227). -/

theorem Memory.readWord_of_readByte {m : Memory} {a : Word} {b0 b1 b2 b3 : Byte}
    (h0 : m.readByte a = some b0) (h1 : m.readByte (a + 1) = some b1)
    (h2 : m.readByte (a + 2) = some b2) (h3 : m.readByte (a + 3) = some b3) :
    m.readWord a = .ok (wordOfBytes b0 b1 b2 b3) := by
  simp only [Memory.readWord, h0, h1, h2, h3]

theorem Memory.readWord_unwritten {m : Memory} {a : Word} (unwritten : m.readByte a = none) :
    m.readWord a = .error a := by
  simp only [Memory.readWord, unwritten]

section
variable {s : State}

theorem State.fetch_misaligned (misaligned : aligned4 s.pc = false) : s.fetch = .refused .misalignedFetch := by
  simp [State.fetch, misaligned]

theorem State.fetch_unwritten (aligned : aligned4 s.pc = true) {a : Word} (unwritten : s.mem.readWord s.pc = .error a) :
    s.fetch = .fault (.unwrittenByte a) := by
  simp [State.fetch, aligned, unwritten]

theorem State.fetch_foreign (aligned : aligned4 s.pc = true) {w : InstrWord} (read : s.mem.readWord s.pc = .ok w)
    {e : DecodeError} (foreign : decodeWord w = .error e) : s.fetch = .refused (.outsideSpec e) := by
  simp [State.fetch, aligned, read, foreign]

theorem State.fetch_decoded (aligned : aligned4 s.pc = true) {w : InstrWord} (read : s.mem.readWord s.pc = .ok w)
    {i : Instr} (decoded : decodeWord w = .ok i) : s.fetch = .next i := by
  simp [State.fetch, aligned, read, decoded]

/-! With no host-core move, the step goes on as the fetch does. -/

theorem step_of_fetch_next (noMove : s.hostMove = none) {i : Instr} (fetched : s.fetch = .next i) :
    step s = withNextInput (exec i s) := by
  simp only [step, noMove, fetched]

theorem step_of_fetch_fault (noMove : s.hostMove = none) {f : Fault} (fetched : s.fetch = .fault f) :
    step s = .fault f := by
  simp only [step, noMove, fetched]

theorem step_of_fetch_refused (noMove : s.hostMove = none) {r : Refusal} (fetched : s.fetch = .refused r) :
    step s = .refused r := by
  simp only [step, noMove, fetched]

end

/-- Settles O5: a word no row selects does not decode, and the refusal of the fetch is the step's. -/
theorem foreignWordRefused : Obligations.ForeignWordRefused := by
  intro s w noMove aligned read unselected
  obtain ⟨_, unselectedFails⟩ := decodeFollowsMaskAndMatch
  obtain ⟨e, foreign⟩ := unselectedFails w fun r hr => ne_of_beq_false (unselected r hr)
  exact ⟨e, step_of_fetch_refused noMove (State.fetch_foreign aligned read foreign)⟩

/-- Settles O6: the four bytes are the word the fetch reads. -/
theorem stepRunsTheDecodedInstruction : Obligations.StepRunsTheDecodedInstruction := by
  intro s b0 b1 b2 b3 i noMove aligned h0 h1 h2 h3 decoded
  have word : decodeWord (wordOfBytes b0 b1 b2 b3) = .ok i := by
    rw [decode_cons_four] at decoded
    cases read : decodeWord (wordOfBytes b0 b1 b2 b3) with
    | error e => rw [read] at decoded; cases decoded
    | ok j => rw [read] at decoded; cases decoded; rfl
  rw [step_of_fetch_next noMove (State.fetch_decoded aligned (Memory.readWord_of_readByte h0 h1 h2 h3) word)]
  cases exec i s <;> rfl

/-- Settles O8: the fetch tests the alignment first, and then reads the bytes in address order. -/
theorem fetchStopsByName : Obligations.FetchStopsByName := fun _ noMove =>
  ⟨fun misaligned => step_of_fetch_refused noMove (State.fetch_misaligned misaligned),
    fun aligned unwritten =>
      step_of_fetch_fault noMove (State.fetch_unwritten aligned (Memory.readWord_unwritten unwritten))⟩

/-! The state `withFetchWord` gives (log 3): the inputs are quiet, and the fetch reads the word placed. -/

theorem tableWord_toNat (w : InstrWord) : tableWord 32 w.toNat = w := by
  rw [tableWord, Nat.mod_eq_of_lt w.isLt, BitVec.ofNat_toNat, BitVec.setWidth_eq]

theorem aligned4_alignDown (a : Word) : aligned4 (alignDown a) = true := by
  rw [aligned4, alignDown, BitVec.extractLsb'_and, beq_iff_eq]
  exact BitVec.and_zero

theorem State.input_withFetchWord (s : State) (n w : Nat) : (s.withFetchWord n w).input = s.input.quiet := by
  simp only [State.input, State.withFetchWord_schedule, State.withFetchWord_draws]
  cases s.schedule <;> rfl

/-- With no event reported and no interrupt ready, the instruction at `pc` has its turn. -/
theorem State.hostMove_of_quiet {s : State} {i : Inputs} (quiet : s.input = i.quiet) : s.hostMove = none := by
  simp [State.hostMove, State.interruptEntry, quiet, Inputs.quiet]

theorem State.fetch_withFetchWord {w : InstrWord} {i : Instr} (decoded : decodeWord w = .ok i) (s : State) :
    (s.withFetchWord 32 w.toNat).fetch = .next i := by
  refine State.fetch_decoded (aligned4_alignDown s.pc) ?_ decoded
  rw [State.withFetchWord_mem, State.withFetchWord_pc, tableWord_toNat, Memory.readWord_writeWord]

/-- Settles O7: nothing is reported instead of the word placed, and the fetch reads it. -/
theorem placedWordRunsNext : Obligations.PlacedWordRunsNext := fun s w _ decoded =>
  step_of_fetch_next (State.hostMove_of_quiet (s.input_withFetchWord 32 w.toNat)) (State.fetch_withFetchWord decoded s)

end Sys2Proof.Machine
end

section
namespace Sys2Proof.Machine

/-! The layout of the word read (10_state.md sections 1 and 3). -/

/-- A field of bits without storage reads as it does in the one constant they form. -/
theorem Mstatus.extractLsb'_read_ignored (m : Mstatus) {start len : Nat}
    (ignored : (0x7FFFFF3FFF818055#64).extractLsb' start len = BitVec.allOnes len) :
    m.read.extractLsb' start len = (0x500000000#64).extractLsb' start len := by
  rw [← m.read_and_ignoredMask, BitVec.extractLsb'_and, ignored, BitVec.and_allOnes]

theorem Priv.code_ne_two (p : Priv) : p.code ≠ 2#2 := by cases p <;> decide

/-- Settles O9: the fields with storage by their bits, the others by the constant they read as, and the code 2 is
that of no level. -/
theorem readWordLayout : Obligations.ReadWordLayout := by
  intro m
  have mpp : m.read.extractLsb' 11 2 = m.mpp.code := m.mppBits_read
  have bit := m.getLsbD_read
  exact ⟨m.getLsbD_read_sd, m.extractLsb'_read_ignored rfl, bit 39, bit 38, m.extractLsb'_read_ignored rfl,
    m.extractLsb'_read_ignored rfl, m.extractLsb'_read_ignored rfl, m.extractLsb'_read_ignored rfl,
    bit 22, bit 21, bit 20, bit 19, bit 18, bit 17, m.extractLsb'_read_ignored rfl, m.fsBits_read, mpp,
    mpp ▸ m.mpp.code_ne_two, m.vsBits_read, bit 8, bit 7, bit 6, bit 5, bit 4, bit 3, bit 2, bit 1, bit 0⟩

end Sys2Proof.Machine
end

section
namespace Sys2Proof.Machine

/-! What every step keeps: the parameters, and below M-mode the context status but for its rise to Dirty (00_scope.md
section 4; 42_wfi_and_gated_instructions.md section 3). -/

/-- No way a step can go touches the parameters or the inputs. -/
theorem State.Moves.cfg_and_inputs {s t : State} (h : s.Moves t) :
    t.cfg = s.cfg ∧ t.schedule = s.schedule ∧ t.draws = s.draws := by
  cases h with
  | reset | mret | sret | wfiComplete | wfiWait => exact ⟨rfl, rfl, rfl⟩
  | trapEntry m c _ =>
    obtain ⟨_, _, _, _, _, _, kept⟩ := s.enter_trapTaken m c
    exact kept
  | hostComplete hi _ _ =>
    obtain ⟨_, _, _, _, _, _, _, _, kept⟩ := s.hostComplete_completed hi
    exact kept
  | csrAccess rd w _ =>
    obtain ⟨_, _, _, _, _, _, _, _, kept⟩ := s.csrAccess_completed rd w
    exact kept

/-- Settles O57: the parameters and the inputs are kept until the inputs of the next step come up. -/
theorem parametersNeverChange : Obligations.ParametersNeverChange := by
  intro s t h
  obtain ⟨u, moved, rfl⟩ := State.moves_of_step h
  obtain ⟨cfg, schedule, draws⟩ := moved.cfg_and_inputs
  exact ⟨cfg, congrArg List.tail schedule, congrArg (· + 1) draws⟩

/-- A context status is kept, or it was on and is Dirty now (R171 to R173). -/
def StatusRises (before after : BitVec 2) : Prop := after = before ∨ (before ≠ 0#2 ∧ after = 3#2)

/-- A unit the gate lets through is on when its state is written (R171, R172; log 17). -/
theorem UnitUse.statusRises {u : UnitUse} {status : BitVec 2} (passes : u.gated (status != 0#2) = false) :
    StatusRises status (u.statusAfter status) := by
  cases u with
  | notUsed | used => exact .inl rfl
  | written => exact .inr ⟨by simpa [UnitUse.gated] using passes, rfl⟩

/-- No trap entry writes FS or VS (60_exceptions.md R200). -/
theorem State.enter_fs_vs (s : State) (m : TrapMode) (c : Cause) :
    (s.enter m c).mstatus.fs = s.mstatus.fs ∧ (s.enter m c).mstatus.vs = s.mstatus.vs := by
  cases m with
  | M | HS | VS => exact ⟨rfl, rfl⟩

/-- The ways to write FS or VS are a reset, a write in M-mode, and the write of a unit no gate refuses. -/
theorem State.Moves.statusRises {s t : State} (h : s.Moves t) (below : s.priv ≠ .M) (noReset : ¬ s.resets) :
    StatusRises s.mstatus.fs t.mstatus.fs ∧ StatusRises s.mstatus.vs t.mstatus.vs := by
  cases h with
  | reset d event => exact absurd ⟨d, event⟩ noReset
  | trapEntry m c _ => exact (s.enter_fs_vs m c).imp .inl .inl
  | hostComplete hi _ noFault =>
    obtain ⟨gate, _⟩ := State.hostFault_eq_none.1 noFault
    simp only [State.gateRefuses, Bool.or_eq_false_iff] at gate
    obtain ⟨⟨fp, vec⟩, _⟩ := gate
    exact ⟨UnitUse.statusRises fp, UnitUse.statusRises vec⟩
  | csrAccess _ _ machine | mret machine => exact absurd machine below
  | sret | wfiComplete | wfiWait => exact ⟨.inl rfl, .inl rfl⟩

/-- Settles O56: each way a step can go from below M-mode keeps FS and VS or raises them to Dirty. -/
theorem statusOnlyRisesToDirty : Obligations.StatusOnlyRisesToDirty := by
  intro s t h below noReset
  obtain ⟨u, moved, rfl⟩ := State.moves_of_step h
  exact moved.statusRises below noReset

/-- Settles O53: the state after reset is in M-mode with `V` = 0 and MPRV = 0, FS and VS are 0, which its parameters
allow, and memory is empty. -/
theorem resetMeetsTheInvariant : Obligations.ResetMeetsTheInvariant :=
  ⟨fun _ => rfl, fun _ => rfl, rfl, rfl, reset_mem_wf⟩

end Sys2Proof.Machine
end

section
namespace Sys2Proof.Machine

/-! The returns and `wfi` where they have their effect (41_trap_return.md sections 1 to 3;
42_wfi_and_gated_instructions.md section 1). -/

/-- The two readings of what `mret` leaves in MPV (R157). -/
theorem State.mpvAfterMret_eq (s : State) :
    s.mpvAfterMret = if s.cfg.mretMpv = .zero then false else s.mstatus.mpv := by
  cases reading : s.cfg.mretMpv <;> simp [State.mpvAfterMret, reading]

/-- Settles O23: in M-mode the meaning is the return, which takes MPV for `V` unless it goes to M-mode. -/
theorem mretReturns : Obligations.MretReturns := by
  intro s machine
  refine ⟨_, exec_mret_machine machine, ?_, rfl, fun toM => ?_, fun toBelow => ?_, rfl, rfl, rfl, fun _ => rfl,
    fun _ => rfl, rfl, rfl, rfl⟩
  · rw [State.returnM_mstatus, State.mpvAfterMret_eq]
  · simp [toM]
  · simp [toBelow]

/-- Settles O24: the meaning is the one trap entry of Illegal Instruction (R195). -/
theorem mretBelowMachineModeTraps : Obligations.MretBelowMachineModeTraps := fun s below =>
  ⟨_, exec_mret_below below, s.raise_exceptionTaken _⟩

/-- Settles O25: in both modes the meaning is the return to the level SPP stands for. -/
theorem sretReturns : Obligations.SretReturns := fun _ allowed =>
  ⟨_, exec_sret_returns allowed, rfl, congrArg Priv.ofSpp, congrArg Priv.ofSpp, rfl, rfl, rfl, rfl, fun _ => rfl,
    fun _ => rfl, rfl, rfl, rfl⟩

/-- Settles O29: where the wait may last it is over, and where it must trap its period has not elapsed; in both
kinds of rows of the table `wfi` completes. -/
theorem wfiCompletes : Obligations.WfiCompletes := by
  intro s ends
  have completes : exec .wfi s = .next s.wfiComplete := by
    rcases ends with ⟨ended, row⟩ | ⟨notElapsed, row⟩
    · rw [exec_wfi_mayWaitForever row, ended]
      rfl
    · have mustTrap : (s.priv ≠ .M ∧ s.mstatus.tw = true) ∨ (s.priv = .U ∧ s.v = false) := by
        rcases row with ⟨supervisor, _, tw⟩ | user | ⟨below, _, tw⟩
        · exact .inl ⟨by simp [supervisor], tw⟩
        · exact .inr user
        · exact .inl ⟨below, tw⟩
      rw [exec_wfi_mustTrapAfterPeriod mustTrap, notElapsed]
      rfl
  exact ⟨_, completes, rfl, rfl, rfl, rfl, rfl, rfl, fun _ => rfl, fun _ => rfl, rfl, rfl, rfl⟩

end Sys2Proof.Machine
end

section
namespace Sys2Proof.Machine

/-! The global interrupt enables, and the order of the two interrupts (60_exceptions.md sections 3 and 5). -/

section
variable {s : State}

theorem State.mIntGloballyEnabled_eq_true :
    s.mIntGloballyEnabled = true ↔ s.priv ≠ .M ∨ s.mstatus.mie = true := by
  by_cases machine : s.priv = .M
  · simp [State.mIntGloballyEnabled_machine machine, machine]
  · simp [State.mIntGloballyEnabled, machine]

theorem State.sIntGloballyEnabled_machine (machine : s.priv = .M) : s.sIntGloballyEnabled = false := by
  simp [State.sIntGloballyEnabled, machine]

theorem State.sIntGloballyEnabled_eq_true :
    s.sIntGloballyEnabled = true ↔ s.priv ≠ .M ∧ (s.priv = .U ∨ s.v = true ∨ s.mstatus.sie = true) := by
  by_cases machine : s.priv = .M
  · simp [State.sIntGloballyEnabled_machine machine, machine]
  · simp [State.sIntGloballyEnabled_below machine, machine, or_assoc]

theorem State.interruptEntry_of_disabled (mDisabled : s.mIntGloballyEnabled = false)
    (sDisabled : s.sIntGloballyEnabled = false) : s.interruptEntry = none := by
  simp [State.interruptEntry, mDisabled, sDisabled]

end

/-- Settles O42: in M-mode only an M-mode interrupt can be enabled, by MIE. -/
theorem globalInterruptEnables : Obligations.GlobalInterruptEnables := fun _ =>
  ⟨State.mIntGloballyEnabled_eq_true, State.sIntGloballyEnabled_eq_true, fun machine mie =>
    State.interruptEntry_of_disabled ((State.mIntGloballyEnabled_machine machine).trans mie)
      (State.sIntGloballyEnabled_machine machine)⟩

/-- Settles O43: the entry of an M-mode interrupt that is ready and enabled is the host-core move of every step but a
reset. -/
theorem machineInterruptTakenFirst : Obligations.MachineInterruptTakenFirst := fun _ noReset ready enabled =>
  step_of_mInterrupt noReset ready (State.mIntGloballyEnabled_eq_true.2 enabled)

/-- Settles O44: with no M-mode interrupt ready, the entry of the HS-mode interrupt is that move. -/
theorem supervisorInterruptTaken : Obligations.SupervisorInterruptTaken :=
  fun _ noReset noMachine ready below enabled =>
    step_of_sInterrupt noReset noMachine ready (State.sIntGloballyEnabled_eq_true.2 ⟨below, enabled⟩)

end Sys2Proof.Machine
end
